-- ==== Sys2Proof/Word.lean ====
section
/-! DEFINITION. The machine's two word types (spec/00_scope.md R5): a byte is 8 bits, a program counter or an address 16. -/

namespace Sys2Proof

/-- A register, a status byte or a memory cell: 8 bits (R5). -/
abbrev Byte := BitVec 8

/-- The program counter or an address: 16 bits (R5). -/
abbrev Word := BitVec 16

end Sys2Proof
end

