-- ==== Sys2Proof/Machine/Bits.lean ====
section
/-! DEFINITION. The bit-field, extension and byte-order helpers of spec/00_scope.md R8 and R9. -/

namespace Sys2Proof

/-- `zext_16(v)` (R9). -/
def zext16 (v : Byte) : Word := v.setWidth 16

/-- `hi:lo`, that is `(hi << 8) | lo` (R9). -/
def wordOf (hi lo : Byte) : Word := zext16 hi <<< 8 ||| zext16 lo

/-- `a[15:8]` (R8). -/
def highByte (w : Word) : Byte := w.extractLsb' 8 8

/-- `a[7:0]` (R8). -/
def lowByte (w : Word) : Byte := w.extractLsb' 0 8

/-- `sext_16(d)` (R9): d if it is below 0x80, else d + 0xFF00. -/
def sext16 (d : Byte) : Word := if d.toNat < 0x80 then zext16 d else zext16 d + 0xFF00

/-- The two addresses lie on different pages: their high bytes differ (R14, R147, R152). -/
def pageCrossed (a b : Word) : Bool := highByte a != highByte b

end Sys2Proof
end

