-- ==== Sys2Proof/Syntax.lean ====
section
/-! DEFINITION. The instructions as data: one constructor per operation of spec/opcode_table.json (56 mnemonics and UNDOC).
The rows that share a mnemonic differ in the addressing mode only, which is the constructor's operand; every row of the
table is so one well-formed shape of its constructor (R132: the table gives an operation AND an addressing mode). -/

namespace Sys2Proof

/-- The thirteen addressing modes of R140 to R152. -/
inductive Mode where
  | implied | accumulator | immediate
  | zeroPage | zeroPageX | zeroPageY
  | absolute | absoluteX | absoluteY
  | indirect | indexedIndirect | indirectIndexed | relative
deriving DecidableEq, Repr

/-- An operand that names a memory cell, with its operand bytes (R143 to R148, R150, R151). -/
inductive Address where
  /-- `$nn` (R143) -/
  | zeroPage (a : Byte)
  /-- `$nn,X` (R144) -/
  | zeroPageX (a : Byte)
  /-- `$nn,Y` (R145) -/
  | zeroPageY (a : Byte)
  /-- `$nnnn` (R146) -/
  | absolute (w : Word)
  /-- `$nnnn,X` (R147) -/
  | absoluteX (w : Word)
  /-- `$nnnn,Y` (R148) -/
  | absoluteY (w : Word)
  /-- `($nn,X)` (R150) -/
  | indexedIndirect (a : Byte)
  /-- `($nn),Y` (R151) -/
  | indirectIndexed (a : Byte)
deriving DecidableEq, Repr

/-- The operand of a read-class instruction (R134): an immediate byte (R142) or a memory cell. -/
inductive Source where
  | immediate (v : Byte)
  | memory (address : Address)
deriving DecidableEq, Repr

/-- The operand of a shift or rotate (R134, R258): the accumulator (R141) or a memory cell. -/
inductive Place where
  | accumulator
  | memory (address : Address)
deriving DecidableEq, Repr

/-- The operand of JMP (R309): absolute (R146) or indirect (R149). -/
inductive JumpTarget where
  | absolute (w : Word)
  | indirect (pointer : Word)
deriving DecidableEq, Repr

/-- The instructions of R160 to R162. BRK's pad byte is no operand: no rule reads it (R313). -/
inductive Instr where
  -- arithmetic, spec/40_arithmetic.md
  | adc (src : Source)
  | sbc (src : Source)
  -- logic and bit test, spec/41_logic_shift.md
  | and (src : Source)
  | ora (src : Source)
  | eor (src : Source)
  | bit (address : Address)
  -- shifts and rotates, spec/41_logic_shift.md
  | asl (place : Place)
  | lsr (place : Place)
  | rol (place : Place)
  | ror (place : Place)
  -- branches, with the displacement byte, spec/42_control.md
  | bcc (disp : Byte)
  | bcs (disp : Byte)
  | beq (disp : Byte)
  | bne (disp : Byte)
  | bmi (disp : Byte)
  | bpl (disp : Byte)
  | bvc (disp : Byte)
  | bvs (disp : Byte)
  -- jumps, subroutines, software interrupt and return, spec/42_control.md
  | jmp (target : JumpTarget)
  | jsr (target : Word)
  | rts
  | brk
  | rti
  -- flag set and clear, spec/43_register_flag.md
  | clc
  | sec
  | cli
  | sei
  | cld
  | sed
  | clv
  -- register transfers, spec/43_register_flag.md
  | tax
  | tay
  | txa
  | tya
  | tsx
  | txs
  -- increment and decrement, spec/43_register_flag.md
  | inx
  | iny
  | dex
  | dey
  | inc (address : Address)
  | dec (address : Address)
  -- compare, spec/43_register_flag.md
  | cmp (src : Source)
  | cpx (src : Source)
  | cpy (src : Source)
  -- loads and stores, spec/44_load_store_stack.md
  | lda (src : Source)
  | ldx (src : Source)
  | ldy (src : Source)
  | sta (address : Address)
  | stx (address : Address)
  | sty (address : Address)
  -- stack, spec/44_load_store_stack.md
  | pha
  | php
  | pla
  | plp
  -- no operation and the 105 undocumented opcode bytes, spec/45_nop_undocumented.md
  | nop
  | undoc (opcode : Byte)
deriving DecidableEq, Repr

/-- The addressing mode of a memory operand. -/
def Address.mode : Address → Mode
  | .zeroPage _ => .zeroPage
  | .zeroPageX _ => .zeroPageX
  | .zeroPageY _ => .zeroPageY
  | .absolute _ => .absolute
  | .absoluteX _ => .absoluteX
  | .absoluteY _ => .absoluteY
  | .indexedIndirect _ => .indexedIndirect
  | .indirectIndexed _ => .indirectIndexed

/-- The addressing mode of a read-class operand. -/
def Source.mode : Source → Mode
  | .immediate _ => .immediate
  | .memory m => m.mode

/-- The addressing mode of a shift or rotate operand. -/
def Place.mode : Place → Mode
  | .accumulator => .accumulator
  | .memory m => m.mode

/-- The addressing mode of a JMP operand. -/
def JumpTarget.mode : JumpTarget → Mode
  | .absolute _ => .absolute
  | .indirect _ => .indirect

/-- The addressing mode of an instruction. -/
def Instr.mode : Instr → Mode
  | .adc src | .sbc src | .and src | .ora src | .eor src | .cmp src | .cpx src | .cpy src | .lda src | .ldx src
  | .ldy src => src.mode
  | .bit m | .inc m | .dec m | .sta m | .stx m | .sty m => m.mode
  | .asl p | .lsr p | .rol p | .ror p => p.mode
  | .bcc _ | .bcs _ | .beq _ | .bne _ | .bmi _ | .bpl _ | .bvc _ | .bvs _ => .relative
  | .jmp t => t.mode
  | .jsr _ => .absolute
  | .rts | .brk | .rti | .clc | .sec | .cli | .sei | .cld | .sed | .clv | .tax | .tay | .txa | .tya | .tsx | .txs
  | .inx | .iny | .dex | .dey | .pha | .php | .pla | .plp | .nop | .undoc _ => .implied

end Sys2Proof
end

