-- ==== Sys2Proof/Decode.lean ====
section
/-! DEFINITION. The encoding: the opcode map R160, the operand bytes R130 and R133, the lengths R131; the decoder from bytes,
the table R161 of opcode and base cycles per mode, and the encoder written from it. -/

namespace Sys2Proof

/-! ### Decoding -/

/-- Row 0x of the opcode map R160, by column; `op1` is the first operand byte and `w` the operand word. -/
def Instr.row0 (op1 : Byte) (w : Word) : Nat → Option Instr
  | 0x0 => some .brk
  | 0x1 => some (.ora (.memory (.indexedIndirect op1)))
  | 0x5 => some (.ora (.memory (.zeroPage op1)))
  | 0x6 => some (.asl (.memory (.zeroPage op1)))
  | 0x8 => some .php
  | 0x9 => some (.ora (.immediate op1))
  | 0xA => some (.asl .accumulator)
  | 0xD => some (.ora (.memory (.absolute w)))
  | 0xE => some (.asl (.memory (.absolute w)))
  | _ => none

/-- Row 1x of the opcode map R160, by column; `op1` is the first operand byte and `w` the operand word. -/
def Instr.row1 (op1 : Byte) (w : Word) : Nat → Option Instr
  | 0x0 => some (.bpl op1)
  | 0x1 => some (.ora (.memory (.indirectIndexed op1)))
  | 0x5 => some (.ora (.memory (.zeroPageX op1)))
  | 0x6 => some (.asl (.memory (.zeroPageX op1)))
  | 0x8 => some .clc
  | 0x9 => some (.ora (.memory (.absoluteY w)))
  | 0xD => some (.ora (.memory (.absoluteX w)))
  | 0xE => some (.asl (.memory (.absoluteX w)))
  | _ => none

/-- Row 2x of the opcode map R160, by column; `op1` is the first operand byte and `w` the operand word. -/
def Instr.row2 (op1 : Byte) (w : Word) : Nat → Option Instr
  | 0x0 => some (.jsr w)
  | 0x1 => some (.and (.memory (.indexedIndirect op1)))
  | 0x4 => some (.bit (.zeroPage op1))
  | 0x5 => some (.and (.memory (.zeroPage op1)))
  | 0x6 => some (.rol (.memory (.zeroPage op1)))
  | 0x8 => some .plp
  | 0x9 => some (.and (.immediate op1))
  | 0xA => some (.rol .accumulator)
  | 0xC => some (.bit (.absolute w))
  | 0xD => some (.and (.memory (.absolute w)))
  | 0xE => some (.rol (.memory (.absolute w)))
  | _ => none

/-- Row 3x of the opcode map R160, by column; `op1` is the first operand byte and `w` the operand word. -/
def Instr.row3 (op1 : Byte) (w : Word) : Nat → Option Instr
  | 0x0 => some (.bmi op1)
  | 0x1 => some (.and (.memory (.indirectIndexed op1)))
  | 0x5 => some (.and (.memory (.zeroPageX op1)))
  | 0x6 => some (.rol (.memory (.zeroPageX op1)))
  | 0x8 => some .sec
  | 0x9 => some (.and (.memory (.absoluteY w)))
  | 0xD => some (.and (.memory (.absoluteX w)))
  | 0xE => some (.rol (.memory (.absoluteX w)))
  | _ => none

/-- Row 4x of the opcode map R160, by column; `op1` is the first operand byte and `w` the operand word. -/
def Instr.row4 (op1 : Byte) (w : Word) : Nat → Option Instr
  | 0x0 => some .rti
  | 0x1 => some (.eor (.memory (.indexedIndirect op1)))
  | 0x5 => some (.eor (.memory (.zeroPage op1)))
  | 0x6 => some (.lsr (.memory (.zeroPage op1)))
  | 0x8 => some .pha
  | 0x9 => some (.eor (.immediate op1))
  | 0xA => some (.lsr .accumulator)
  | 0xC => some (.jmp (.absolute w))
  | 0xD => some (.eor (.memory (.absolute w)))
  | 0xE => some (.lsr (.memory (.absolute w)))
  | _ => none

/-- Row 5x of the opcode map R160, by column; `op1` is the first operand byte and `w` the operand word. -/
def Instr.row5 (op1 : Byte) (w : Word) : Nat → Option Instr
  | 0x0 => some (.bvc op1)
  | 0x1 => some (.eor (.memory (.indirectIndexed op1)))
  | 0x5 => some (.eor (.memory (.zeroPageX op1)))
  | 0x6 => some (.lsr (.memory (.zeroPageX op1)))
  | 0x8 => some .cli
  | 0x9 => some (.eor (.memory (.absoluteY w)))
  | 0xD => some (.eor (.memory (.absoluteX w)))
  | 0xE => some (.lsr (.memory (.absoluteX w)))
  | _ => none

/-- Row 6x of the opcode map R160, by column; `op1` is the first operand byte and `w` the operand word. -/
def Instr.row6 (op1 : Byte) (w : Word) : Nat → Option Instr
  | 0x0 => some .rts
  | 0x1 => some (.adc (.memory (.indexedIndirect op1)))
  | 0x5 => some (.adc (.memory (.zeroPage op1)))
  | 0x6 => some (.ror (.memory (.zeroPage op1)))
  | 0x8 => some .pla
  | 0x9 => some (.adc (.immediate op1))
  | 0xA => some (.ror .accumulator)
  | 0xC => some (.jmp (.indirect w))
  | 0xD => some (.adc (.memory (.absolute w)))
  | 0xE => some (.ror (.memory (.absolute w)))
  | _ => none

/-- Row 7x of the opcode map R160, by column; `op1` is the first operand byte and `w` the operand word. -/
def Instr.row7 (op1 : Byte) (w : Word) : Nat → Option Instr
  | 0x0 => some (.bvs op1)
  | 0x1 => some (.adc (.memory (.indirectIndexed op1)))
  | 0x5 => some (.adc (.memory (.zeroPageX op1)))
  | 0x6 => some (.ror (.memory (.zeroPageX op1)))
  | 0x8 => some .sei
  | 0x9 => some (.adc (.memory (.absoluteY w)))
  | 0xD => some (.adc (.memory (.absoluteX w)))
  | 0xE => some (.ror (.memory (.absoluteX w)))
  | _ => none

/-- Row 8x of the opcode map R160, by column; `op1` is the first operand byte and `w` the operand word. -/
def Instr.row8 (op1 : Byte) (w : Word) : Nat → Option Instr
  | 0x1 => some (.sta (.indexedIndirect op1))
  | 0x4 => some (.sty (.zeroPage op1))
  | 0x5 => some (.sta (.zeroPage op1))
  | 0x6 => some (.stx (.zeroPage op1))
  | 0x8 => some .dey
  | 0xA => some .txa
  | 0xC => some (.sty (.absolute w))
  | 0xD => some (.sta (.absolute w))
  | 0xE => some (.stx (.absolute w))
  | _ => none

/-- Row 9x of the opcode map R160, by column; `op1` is the first operand byte and `w` the operand word. -/
def Instr.row9 (op1 : Byte) (w : Word) : Nat → Option Instr
  | 0x0 => some (.bcc op1)
  | 0x1 => some (.sta (.indirectIndexed op1))
  | 0x4 => some (.sty (.zeroPageX op1))
  | 0x5 => some (.sta (.zeroPageX op1))
  | 0x6 => some (.stx (.zeroPageY op1))
  | 0x8 => some .tya
  | 0x9 => some (.sta (.absoluteY w))
  | 0xA => some .txs
  | 0xD => some (.sta (.absoluteX w))
  | _ => none

/-- Row Ax of the opcode map R160, by column; `op1` is the first operand byte and `w` the operand word. -/
def Instr.rowA (op1 : Byte) (w : Word) : Nat → Option Instr
  | 0x0 => some (.ldy (.immediate op1))
  | 0x1 => some (.lda (.memory (.indexedIndirect op1)))
  | 0x2 => some (.ldx (.immediate op1))
  | 0x4 => some (.ldy (.memory (.zeroPage op1)))
  | 0x5 => some (.lda (.memory (.zeroPage op1)))
  | 0x6 => some (.ldx (.memory (.zeroPage op1)))
  | 0x8 => some .tay
  | 0x9 => some (.lda (.immediate op1))
  | 0xA => some .tax
  | 0xC => some (.ldy (.memory (.absolute w)))
  | 0xD => some (.lda (.memory (.absolute w)))
  | 0xE => some (.ldx (.memory (.absolute w)))
  | _ => none

/-- Row Bx of the opcode map R160, by column; `op1` is the first operand byte and `w` the operand word. -/
def Instr.rowB (op1 : Byte) (w : Word) : Nat → Option Instr
  | 0x0 => some (.bcs op1)
  | 0x1 => some (.lda (.memory (.indirectIndexed op1)))
  | 0x4 => some (.ldy (.memory (.zeroPageX op1)))
  | 0x5 => some (.lda (.memory (.zeroPageX op1)))
  | 0x6 => some (.ldx (.memory (.zeroPageY op1)))
  | 0x8 => some .clv
  | 0x9 => some (.lda (.memory (.absoluteY w)))
  | 0xA => some .tsx
  | 0xC => some (.ldy (.memory (.absoluteX w)))
  | 0xD => some (.lda (.memory (.absoluteX w)))
  | 0xE => some (.ldx (.memory (.absoluteY w)))
  | _ => none

/-- Row Cx of the opcode map R160, by column; `op1` is the first operand byte and `w` the operand word. -/
def Instr.rowC (op1 : Byte) (w : Word) : Nat → Option Instr
  | 0x0 => some (.cpy (.immediate op1))
  | 0x1 => some (.cmp (.memory (.indexedIndirect op1)))
  | 0x4 => some (.cpy (.memory (.zeroPage op1)))
  | 0x5 => some (.cmp (.memory (.zeroPage op1)))
  | 0x6 => some (.dec (.zeroPage op1))
  | 0x8 => some .iny
  | 0x9 => some (.cmp (.immediate op1))
  | 0xA => some .dex
  | 0xC => some (.cpy (.memory (.absolute w)))
  | 0xD => some (.cmp (.memory (.absolute w)))
  | 0xE => some (.dec (.absolute w))
  | _ => none

/-- Row Dx of the opcode map R160, by column; `op1` is the first operand byte and `w` the operand word. -/
def Instr.rowD (op1 : Byte) (w : Word) : Nat → Option Instr
  | 0x0 => some (.bne op1)
  | 0x1 => some (.cmp (.memory (.indirectIndexed op1)))
  | 0x5 => some (.cmp (.memory (.zeroPageX op1)))
  | 0x6 => some (.dec (.zeroPageX op1))
  | 0x8 => some .cld
  | 0x9 => some (.cmp (.memory (.absoluteY w)))
  | 0xD => some (.cmp (.memory (.absoluteX w)))
  | 0xE => some (.dec (.absoluteX w))
  | _ => none

/-- Row Ex of the opcode map R160, by column; `op1` is the first operand byte and `w` the operand word. -/
def Instr.rowE (op1 : Byte) (w : Word) : Nat → Option Instr
  | 0x0 => some (.cpx (.immediate op1))
  | 0x1 => some (.sbc (.memory (.indexedIndirect op1)))
  | 0x4 => some (.cpx (.memory (.zeroPage op1)))
  | 0x5 => some (.sbc (.memory (.zeroPage op1)))
  | 0x6 => some (.inc (.zeroPage op1))
  | 0x8 => some .inx
  | 0x9 => some (.sbc (.immediate op1))
  | 0xA => some .nop
  | 0xC => some (.cpx (.memory (.absolute w)))
  | 0xD => some (.sbc (.memory (.absolute w)))
  | 0xE => some (.inc (.absolute w))
  | _ => none

/-- Row Fx of the opcode map R160, by column; `op1` is the first operand byte and `w` the operand word. -/
def Instr.rowF (op1 : Byte) (w : Word) : Nat → Option Instr
  | 0x0 => some (.beq op1)
  | 0x1 => some (.sbc (.memory (.indirectIndexed op1)))
  | 0x5 => some (.sbc (.memory (.zeroPageX op1)))
  | 0x6 => some (.inc (.zeroPageX op1))
  | 0x8 => some .sed
  | 0x9 => some (.sbc (.memory (.absoluteY w)))
  | 0xD => some (.sbc (.memory (.absoluteX w)))
  | 0xE => some (.inc (.absoluteX w))
  | _ => none

/-- The documented instruction of an opcode byte with the operand bytes that follow it: the opcode map R160, row = high
nibble, column = low nibble. -/
def Instr.documented (opcode op1 op2 : Byte) : Option Instr :=
  let w := wordOf op2 op1
  let column := opcode.toNat % 16
  match opcode.toNat / 16 with
  | 0x0 => Instr.row0 op1 w column
  | 0x1 => Instr.row1 op1 w column
  | 0x2 => Instr.row2 op1 w column
  | 0x3 => Instr.row3 op1 w column
  | 0x4 => Instr.row4 op1 w column
  | 0x5 => Instr.row5 op1 w column
  | 0x6 => Instr.row6 op1 w column
  | 0x7 => Instr.row7 op1 w column
  | 0x8 => Instr.row8 op1 w column
  | 0x9 => Instr.row9 op1 w column
  | 0xA => Instr.rowA op1 w column
  | 0xB => Instr.rowB op1 w column
  | 0xC => Instr.rowC op1 w column
  | 0xD => Instr.rowD op1 w column
  | 0xE => Instr.rowE op1 w column
  | _ => Instr.rowF op1 w column

/-- The instruction of an opcode byte with the operand bytes that follow it, which a mode that does not use them ignores; a
byte of no cell of the opcode map is undocumented (R162). -/
def Instr.ofBytes (opcode op1 op2 : Byte) : Instr := (Instr.documented opcode op1 op2).getD (.undoc opcode)

/-- The length in bytes of an instruction in the mode (R131). -/
def Mode.length : Mode → Nat
  | .implied | .accumulator => 1
  | .immediate | .zeroPage | .zeroPageX | .zeroPageY | .relative | .indexedIndirect | .indirectIndexed => 2
  | .absolute | .absoluteX | .absoluteY | .indirect => 3

/-- The pad byte after BRK's opcode (R131, R313); no other instruction has one. -/
def Instr.padBytes (i : Instr) : Nat := if i = .brk then 1 else 0

/-- The length of an instruction (R131): its mode's, and 2 for BRK with its pad byte. -/
def Instr.length (i : Instr) : Nat := i.mode.length + i.padBytes

/-- How many operand bytes the instruction reads (R140 to R152): those after the opcode, but BRK's pad byte is not read
(R313, D5). -/
def Instr.operandBytes (i : Instr) : Nat := i.mode.length - 1

/-- Why a list of bytes is no instruction. No opcode byte is a reason (R163). -/
inductive DecodeError where
  /-- there is no byte at all -/
  | noOpcode
  /-- the bytes end before the instruction of this opcode does -/
  | truncated (opcode : Byte)
deriving DecidableEq, Repr

/-- The instruction at the head of the bytes, and the bytes after it (R130 to R132). -/
def decode : List Byte → Except DecodeError (Instr × List Byte)
  | [] => .error .noOpcode
  | opcode :: rest =>
    match (Instr.ofBytes opcode 0 0).length, rest with
    | 1, _ => .ok (Instr.ofBytes opcode 0 0, rest)
    | 2, op1 :: rest => .ok (Instr.ofBytes opcode op1 0, rest)
    | 3, op1 :: op2 :: rest => .ok (Instr.ofBytes opcode op1 op2, rest)
    | _, _ => .error (.truncated opcode)

/-- The three bytes of an instruction whose bits are `w`, of which the first `nbits` count; the first byte holds the least
significant bits. -/
def tableBytes (nbits w : Nat) : List Byte :=
  let bits := w % 2 ^ nbits
  [BitVec.ofNat 8 bits, BitVec.ofNat 8 (bits / 0x100), BitVec.ofNat 8 (bits / 0x10000)]

/-- The instruction the decoder reads from a word numbered as spec/opcode_table.json numbers its bits. -/
def decodeTableWord (nbits w : Nat) : Option Instr :=
  match decode (tableBytes nbits w) with
  | .ok (i, _) => some i
  | .error _ => none

/-! ### The table R161 and encoding -/

/-- One entry `mode: opcode/base cycles` of a row of R161. -/
structure Form where
  mode : Mode
  opcode : Byte
  base : Nat
deriving DecidableEq, Repr

/-- The row of R161 for an operation with the eight modes of ADC, from its opcodes in the table's order. -/
def accumulatorForms (imm zp zpX abs absX absY indX indY : Byte) : List Form :=
  [⟨.immediate, imm, 2⟩, ⟨.zeroPage, zp, 3⟩, ⟨.zeroPageX, zpX, 4⟩, ⟨.absolute, abs, 4⟩, ⟨.absoluteX, absX, 4⟩,
    ⟨.absoluteY, absY, 4⟩, ⟨.indexedIndirect, indX, 6⟩, ⟨.indirectIndexed, indY, 5⟩]

/-- The row of R161 for a shift or rotate. -/
def shiftForms (acc zp zpX abs absX : Byte) : List Form :=
  [⟨.accumulator, acc, 2⟩, ⟨.zeroPage, zp, 5⟩, ⟨.zeroPageX, zpX, 6⟩, ⟨.absolute, abs, 6⟩, ⟨.absoluteX, absX, 7⟩]

/-- The rows of the table R161; an undocumented byte is its own opcode, with base 2 (R162). -/
def Instr.forms : Instr → List Form
  | .adc _ => accumulatorForms 0x69 0x65 0x75 0x6D 0x7D 0x79 0x61 0x71
  | .sbc _ => accumulatorForms 0xE9 0xE5 0xF5 0xED 0xFD 0xF9 0xE1 0xF1
  | .and _ => accumulatorForms 0x29 0x25 0x35 0x2D 0x3D 0x39 0x21 0x31
  | .ora _ => accumulatorForms 0x09 0x05 0x15 0x0D 0x1D 0x19 0x01 0x11
  | .eor _ => accumulatorForms 0x49 0x45 0x55 0x4D 0x5D 0x59 0x41 0x51
  | .bit _ => [⟨.zeroPage, 0x24, 3⟩, ⟨.absolute, 0x2C, 4⟩]
  | .asl _ => shiftForms 0x0A 0x06 0x16 0x0E 0x1E
  | .lsr _ => shiftForms 0x4A 0x46 0x56 0x4E 0x5E
  | .rol _ => shiftForms 0x2A 0x26 0x36 0x2E 0x3E
  | .ror _ => shiftForms 0x6A 0x66 0x76 0x6E 0x7E
  | .bcc _ => [⟨.relative, 0x90, 2⟩]
  | .bcs _ => [⟨.relative, 0xB0, 2⟩]
  | .beq _ => [⟨.relative, 0xF0, 2⟩]
  | .bne _ => [⟨.relative, 0xD0, 2⟩]
  | .bmi _ => [⟨.relative, 0x30, 2⟩]
  | .bpl _ => [⟨.relative, 0x10, 2⟩]
  | .bvc _ => [⟨.relative, 0x50, 2⟩]
  | .bvs _ => [⟨.relative, 0x70, 2⟩]
  | .jmp _ => [⟨.absolute, 0x4C, 3⟩, ⟨.indirect, 0x6C, 5⟩]
  | .jsr _ => [⟨.absolute, 0x20, 6⟩]
  | .rts => [⟨.implied, 0x60, 6⟩]
  | .brk => [⟨.implied, 0x00, 7⟩]
  | .rti => [⟨.implied, 0x40, 6⟩]
  | .clc => [⟨.implied, 0x18, 2⟩]
  | .sec => [⟨.implied, 0x38, 2⟩]
  | .cli => [⟨.implied, 0x58, 2⟩]
  | .sei => [⟨.implied, 0x78, 2⟩]
  | .cld => [⟨.implied, 0xD8, 2⟩]
  | .sed => [⟨.implied, 0xF8, 2⟩]
  | .clv => [⟨.implied, 0xB8, 2⟩]
  | .tax => [⟨.implied, 0xAA, 2⟩]
  | .tay => [⟨.implied, 0xA8, 2⟩]
  | .txa => [⟨.implied, 0x8A, 2⟩]
  | .tya => [⟨.implied, 0x98, 2⟩]
  | .tsx => [⟨.implied, 0xBA, 2⟩]
  | .txs => [⟨.implied, 0x9A, 2⟩]
  | .inx => [⟨.implied, 0xE8, 2⟩]
  | .iny => [⟨.implied, 0xC8, 2⟩]
  | .dex => [⟨.implied, 0xCA, 2⟩]
  | .dey => [⟨.implied, 0x88, 2⟩]
  | .inc _ => [⟨.zeroPage, 0xE6, 5⟩, ⟨.zeroPageX, 0xF6, 6⟩, ⟨.absolute, 0xEE, 6⟩, ⟨.absoluteX, 0xFE, 7⟩]
  | .dec _ => [⟨.zeroPage, 0xC6, 5⟩, ⟨.zeroPageX, 0xD6, 6⟩, ⟨.absolute, 0xCE, 6⟩, ⟨.absoluteX, 0xDE, 7⟩]
  | .cmp _ => accumulatorForms 0xC9 0xC5 0xD5 0xCD 0xDD 0xD9 0xC1 0xD1
  | .cpx _ => [⟨.immediate, 0xE0, 2⟩, ⟨.zeroPage, 0xE4, 3⟩, ⟨.absolute, 0xEC, 4⟩]
  | .cpy _ => [⟨.immediate, 0xC0, 2⟩, ⟨.zeroPage, 0xC4, 3⟩, ⟨.absolute, 0xCC, 4⟩]
  | .lda _ => accumulatorForms 0xA9 0xA5 0xB5 0xAD 0xBD 0xB9 0xA1 0xB1
  | .ldx _ => [⟨.immediate, 0xA2, 2⟩, ⟨.zeroPage, 0xA6, 3⟩, ⟨.zeroPageY, 0xB6, 4⟩, ⟨.absolute, 0xAE, 4⟩,
      ⟨.absoluteY, 0xBE, 4⟩]
  | .ldy _ => [⟨.immediate, 0xA0, 2⟩, ⟨.zeroPage, 0xA4, 3⟩, ⟨.zeroPageX, 0xB4, 4⟩, ⟨.absolute, 0xAC, 4⟩,
      ⟨.absoluteX, 0xBC, 4⟩]
  | .sta _ => [⟨.zeroPage, 0x85, 3⟩, ⟨.zeroPageX, 0x95, 4⟩, ⟨.absolute, 0x8D, 4⟩, ⟨.absoluteX, 0x9D, 5⟩,
      ⟨.absoluteY, 0x99, 5⟩, ⟨.indexedIndirect, 0x81, 6⟩, ⟨.indirectIndexed, 0x91, 6⟩]
  | .stx _ => [⟨.zeroPage, 0x86, 3⟩, ⟨.zeroPageY, 0x96, 4⟩, ⟨.absolute, 0x8E, 4⟩]
  | .sty _ => [⟨.zeroPage, 0x84, 3⟩, ⟨.zeroPageX, 0x94, 4⟩, ⟨.absolute, 0x8C, 4⟩]
  | .pha => [⟨.implied, 0x48, 3⟩]
  | .php => [⟨.implied, 0x08, 3⟩]
  | .pla => [⟨.implied, 0x68, 4⟩]
  | .plp => [⟨.implied, 0x28, 4⟩]
  | .nop => [⟨.implied, 0xEA, 2⟩]
  | .undoc b => [⟨.implied, b, 2⟩]

/-- The entry of R161 for the instruction; none for a mode the operation does not have. -/
def Instr.form? (i : Instr) : Option Form := i.forms.find? fun f => decide (f.mode = i.mode)

/-- The base cycle count (R161, R162); 0 for a term that no opcode encodes. -/
def Instr.baseCycles (i : Instr) : Nat :=
  match i.form? with
  | some f => f.base
  | none => 0

/-- The operand bytes of a word, the low byte first (R130, R133). -/
def wordBytes (w : Word) : List Byte := [lowByte w, highByte w]

/-- The operand bytes of a memory operand. -/
def Address.bytes : Address → List Byte
  | .zeroPage a | .zeroPageX a | .zeroPageY a | .indexedIndirect a | .indirectIndexed a => [a]
  | .absolute w | .absoluteX w | .absoluteY w => wordBytes w

/-- The operand bytes of a read-class operand. -/
def Source.bytes : Source → List Byte
  | .immediate v => [v]
  | .memory m => m.bytes

/-- The operand bytes of a shift or rotate operand. -/
def Place.bytes : Place → List Byte
  | .accumulator => []
  | .memory m => m.bytes

/-- The operand bytes of a JMP operand. -/
def JumpTarget.bytes : JumpTarget → List Byte
  | .absolute w | .indirect w => wordBytes w

/-- The bytes after the opcode (R130); BRK's pad byte is written as 0x00 (R165). -/
def Instr.tailBytes : Instr → List Byte
  | .adc src | .sbc src | .and src | .ora src | .eor src | .cmp src | .cpx src | .cpy src | .lda src | .ldx src
  | .ldy src => src.bytes
  | .bit m | .inc m | .dec m | .sta m | .stx m | .sty m => m.bytes
  | .asl p | .lsr p | .rol p | .ror p => p.bytes
  | .bcc d | .bcs d | .beq d | .bne d | .bmi d | .bpl d | .bvc d | .bvs d => [d]
  | .jmp t => t.bytes
  | .jsr w => wordBytes w
  | .brk => [0x00]
  | .rts | .rti | .clc | .sec | .cli | .sei | .cld | .sed | .clv | .tax | .tay | .txa | .tya | .tsx | .txs
  | .inx | .iny | .dex | .dey | .pha | .php | .pla | .plp | .nop | .undoc _ => []

/-- The bytes of an instruction; none for a term that no opcode encodes. -/
def encode (i : Instr) : List Byte :=
  match i.form? with
  | some f => f.opcode :: i.tailBytes
  | none => []

end Sys2Proof
end

