-- ==== Sys2Proof/Config.lean ====
section
/-! DEFINITION. What the implementation or the surroundings fix and the spec leaves open: the free values (constants with
no body, so that no proof can learn one) and the named parameters of spec/00_scope.md R6 that State.reset needs. -/

namespace Sys2Proof

/-- One access of the I/O port, as spec/20_memory.md R85 records it: address, direction, value. -/
inductive IoEvent where
  | read (address : Word) (value : Byte)
  | write (address : Word) (value : Byte)
deriving DecidableEq, Repr

/-- One access of the mapper port (R86). The value a read gives is the mapper's answer, so it is not repeated here. -/
inductive MapAccess where
  | read (address : Word)
  | write (address : Word) (value : Byte)
deriving DecidableEq, Repr

/-- One address in 0x2000 to 0x401F, as R6 types `RESET_IO_CLEAR`: an I/O register of R84. -/
structure IoAddress where
  value : Word
  inRange : 0x2000 ≤ value.toNat ∧ value.toNat < 0x4020
deriving DecidableEq, Repr

/-- A set of addresses in 0x2000 to 0x401F, as R6 types `POWERUP_IO_CLEAR`: listed in ascending order, as R601 goes through
it, so each once. -/
structure IoSet where
  addresses : List Word
  inRange : ∀ a ∈ addresses, 0x2000 ≤ a.toNat ∧ a.toNat < 0x4020
  ascending : addresses.Pairwise fun a b => a.toNat < b.toNat
deriving DecidableEq, Repr

namespace Config

/-! ### Free values: each is a draw in the spec's sense (R14), and nothing constrains it -/

/-- The byte that the n-th draw gives for a read of the I/O address (R85, R94, K1). Log entry 3. -/
opaque ioRead : Nat → Word → Byte

/-- `POWERUP_RAM` (R6, R83): the byte that RAM cell `cell` holds after the power-up whose draw is `n`, until it is
written. Log entry 2. -/
opaque powerUpRam (n cell : Nat) : Byte

/-- The answer of a mapper other than the NROM-style one (R86, K8) to a read of the address, given every access it
served before, latest first; `none`: it has no handler for the address. Log entry 4. -/
opaque mapRead : List MapAccess → Word → Option Byte

/-- The registers A, X, Y and SP (numbered 0 to 3) after an unmapped-address fault, which R170 leaves unspecified.
Log entry 5. -/
opaque faultByte (n register : Nat) : Byte

/-- PC after an unmapped-address fault. Log entry 5. -/
opaque faultPc : Nat → Word

/-- The flags C, Z, I, D, B, V, N and the NMI and IRQ latches (numbered 0 to 8) after an unmapped-address fault.
Log entry 5. -/
opaque faultBit (n bit : Nat) : Bool

/-- What an unmapped-address fault leaves added to the cycle counter (R621: the counter never decreases).
Log entry 5. -/
opaque faultCycles : Nat → Nat

/-! ### The parameters of R6, with the values State.reset takes for them -/

/-- `POWERUP_SP` in State.reset: R601's informative silicon default. Log entry 6. -/
def powerUpSp : Byte := 0xFD

/-- `POWERUP_IO_CLEAR` in State.reset: R601's informative addresses. Log entry 8. -/
def powerUpIoClear : IoSet where
  addresses :=
    [0x4000, 0x4001, 0x4002, 0x4003, 0x4004, 0x4005, 0x4006, 0x4007, 0x4008] ++
    [0x4009, 0x400A, 0x400B, 0x400C, 0x400D, 0x400E, 0x400F, 0x4015, 0x4017]
  inRange := by simp
  ascending := by simp

/-- `RESET_IO_CLEAR` in State.reset: R602's informative address. Log entry 8. -/
def resetIoClear : IoAddress := ⟨0x4015, by decide⟩

end Config
end Sys2Proof
end

