-- ==== Sys2Proof/Machine/Memory.lean ====
section
/-! DEFINITION. Memory as plain data: cells in strictly rising order of address, none equal to what an unlisted address
reads as (`blank`; `none` where an unlisted cell has no fixed byte). -/

namespace Sys2Proof.Machine

/-- A memory: its listed cells. -/
abbrev Memory := List Host.Cell

/-- The byte listed for the address, if one is. -/
def Memory.lookup : Memory → Nat → Option Byte
  | [], _ => none
  | (b, v) :: m, a => if b = a then some v else Memory.lookup m a

/-- The cell put before the cells `m`, unless its byte is what an unlisted address reads as. -/
def Memory.place (blank : Option Byte) (a : Nat) (v : Byte) (m : Memory) : Memory :=
  if blank = some v then m else (a, v) :: m

/-- Write one byte and keep the canonical form: a byte equal to `blank` removes the cell's entry. -/
def Memory.write (blank : Option Byte) : Memory → Nat → Byte → Memory
  | [], a, v => Memory.place blank a v []
  | (b, w) :: m, a, v =>
    if a < b then Memory.place blank a v ((b, w) :: m)
    else if a = b then Memory.place blank a v m
    else (b, w) :: Memory.write blank m a v

/-- The canonical form from address `lo` on: every address at least `lo` and below `size`, strictly rising, no byte
equal to `blank`. -/
def Memory.wfFrom (size : Nat) (blank : Option Byte) : Nat → Memory → Bool
  | _, [] => true
  | lo, (a, v) :: m => decide (lo ≤ a) && decide (a < size) && (blank != some v) && Memory.wfFrom size blank (a + 1) m

/-- The memory of `size` cells is in canonical form. -/
def Memory.wf (size : Nat) (blank : Option Byte) (m : Memory) : Bool := Memory.wfFrom size blank 0 m

/-- A memory of `size` cells that lists the same byte at every address. -/
def Memory.filled (size : Nat) (v : Byte) : Memory := (List.range size).map fun a => (a, v)

/-- What an unlisted cell of internal RAM reads as: no fixed byte, since R83 makes it a draw. Log entry 2. -/
def ramBlank : Option Byte := none

/-- What an unlisted byte of a cartridge's PRG-ROM image or PRG-RAM reads as: 0x00. Log entry 7. -/
def cartridgeBlank : Option Byte := some 0x00

end Sys2Proof.Machine
end

