-- ==== Sys2Proof/Machine/State.lean ====
section
/-! DEFINITION. The machine's whole state as plain data (spec/10_state.md R30), what stands behind the two ports
(R85, R86), and the state after reset (R55, R601 to R603). -/

namespace Sys2Proof.Machine

/-- The seven stored flags (R36): carry, zero, interrupt-disable, decimal, break, overflow, negative. -/
structure Flags where
  c : Bool
  z : Bool
  i : Bool
  d : Bool
  b : Bool
  v : Bool
  n : Bool
deriving DecidableEq, Repr

/-- The PRG-ROM of an NROM-style cartridge is 16 or 32 KB (R540). -/
inductive PrgSize where
  | kb16
  | kb32
deriving DecidableEq, Repr

/-- The NROM-style mapper of R540, as the CPU bus sees it: the PRG-ROM image by offset, and the PRG-RAM if present. -/
structure Nrom where
  prgSize : PrgSize
  prg : Memory
  hasPrgRam : Bool
  prgRam : Memory
deriving DecidableEq, Repr

/-- The device behind the mapper port (R86), a parameter of the model. -/
inductive Mapper where
  /-- the NROM-style mapper, whose behaviour R540 gives -/
  | nrom (cartridge : Nrom)
  /-- any other mapper, known by nothing but the accesses it has served, latest first; `Config.mapRead` answers for it -/
  | other (served : List MapAccess)
deriving DecidableEq, Repr

/-- The state of R30 in the spec's order, then what stands behind the ports, then the model's own fields. -/
structure State where
  /-- accumulator (R31) -/
  a : Byte
  /-- index register X (R32) -/
  x : Byte
  /-- index register Y (R33) -/
  y : Byte
  /-- stack pointer, an offset into page 0x01 (R34) -/
  sp : Byte
  /-- program counter (R35) -/
  pc : Word
  /-- the seven flags (R36 to R39, R44 to R47) -/
  flags : Flags
  /-- NMI pending latch (R48) -/
  nmiPending : Bool
  /-- IRQ pending latch (R49) -/
  irqPending : Bool
  /-- elapsed clock cycles, unbounded (R50) -/
  cycles : Nat
  /-- internal RAM, cells 0 to 0x7FF (R51, R83): the cells written since power-up -/
  ram : Memory
  /-- the address of the fatal unmapped-address fault, if one happened (R52) -/
  fault : Option Word
  /-- the device behind the mapper port (R86) -/
  mapper : Mapper
  /-- the accesses of the I/O port, latest first (R85) -/
  ioLog : List IoEvent
  /-- the model's own: how many draws were made, so that each draw is a fresh free value (log entry 3) -/
  draws : Nat
  /-- the model's own: the draw that gives the RAM cells not written since power-up (log entry 2) -/
  ramDraw : Nat
  /-- the model's own, asked for by D3 and U1: an undocumented opcode has executed (log entry 9) -/
  undocExecuted : Bool
deriving DecidableEq, Repr

/-- The faults that end a run. There are none: the one fault of the spec, the unmapped address (R500), is a STATE of the
machine, `State.fault`, which the step enters and no later step leaves (R170, R501). -/
inductive Fault
deriving DecidableEq, Repr

/-- The reasons an instruction has no meaning. -/
inductive Refusal where
  /-- raised by a refused arm of exec for an instruction that has no meaning yet (safe); every arm has its meaning, so
  nothing raises it -/
  | notModelled (mnemonic : String)
deriving DecidableEq, Repr

/-- What a step or an instruction answers. -/
abbrev Result := Host.Outcome State Fault Refusal

/-- The flags after power-up and before Reset in State.reset: R601's informative status 0x34, that is I and B set.
Log entry 6. -/
def Flags.powerUp : Flags := ⟨false, false, true, false, true, false, false⟩

/-- The cartridge in State.reset: a 32 KB NROM-style one with nothing listed, so that the interface loads no program.
Log entry 7. -/
def Mapper.blank : Mapper := .nrom ⟨.kb32, [], false, []⟩

/-- The machine right after the boot order of R603: cartridge, PowerUp (R601), Reset (R602), before the first Step.
SP is the power-up value less 3; I is 1; PC is the RESET vector, which reads 0x0000 from the blank cartridge; the I/O
log holds PowerUp's writes and then Reset's, latest first. Log entries 1, 6, 7 and 8. -/
def State.reset : State where
  a := 0x00
  x := 0x00
  y := 0x00
  sp := 0xFA
  pc := 0x0000
  flags := ⟨false, false, true, false, true, false, false⟩
  nmiPending := false
  irqPending := false
  cycles := 0
  ram := []
  fault := none
  mapper := Mapper.blank
  ioLog := .write Config.resetIoClear.value 0x00 :: (Config.powerUpIoClear.addresses.reverse.map fun a => .write a 0x00)
  draws := 1
  ramDraw := 0
  undocExecuted := false

end Sys2Proof.Machine
end

