-- ==== Sys2Proof/Machine/Registers.lean ====
section
/-! DEFINITION. The named updates of State, one per piece of state that an operation writes. No register has an alias or a
hardwired value (spec/10_state.md R31 to R35), so each write is the plain one. -/

namespace Sys2Proof.Machine

/-- `A <- v` (R31). -/
def State.setA (v : Byte) (s : State) : State := { s with a := v }

/-- `X <- v` (R32). -/
def State.setX (v : Byte) (s : State) : State := { s with x := v }

/-- `Y <- v` (R33). -/
def State.setY (v : Byte) (s : State) : State := { s with y := v }

/-- `SP <- v` (R34). -/
def State.setSp (v : Byte) (s : State) : State := { s with sp := v }

/-- `PC <- v` (R35). -/
def State.setPc (v : Word) (s : State) : State := { s with pc := v }

/-- Write the seven flags (R36). -/
def State.setFlags (f : Flags) (s : State) : State := { s with flags := f }

/-- `nmiPending <- v` (R48). -/
def State.setNmiPending (v : Bool) (s : State) : State := { s with nmiPending := v }

/-- `irqPending <- v` (R49). -/
def State.setIrqPending (v : Bool) (s : State) : State := { s with irqPending := v }

/-- `cycles <- cycles + n` (R50). -/
def State.addCycles (n : Nat) (s : State) : State := { s with cycles := s.cycles + n }

/-- Replace the listed cells of internal RAM (R51). -/
def State.setRam (m : Memory) (s : State) : State := { s with ram := m }

/-- Write the fault mark (R52). -/
def State.setFault (f : Option Word) (s : State) : State := { s with fault := f }

/-- Replace the device behind the mapper port (R86). -/
def State.setMapper (m : Mapper) (s : State) : State := { s with mapper := m }

/-- Record an access of the I/O port (R85). -/
def State.logIo (e : IoEvent) (s : State) : State := { s with ioLog := e :: s.ioLog }

/-- Count one more draw. -/
def State.countDraw (s : State) : State := { s with draws := s.draws + 1 }

/-- Let the RAM cells that are not listed be those of draw `n`. -/
def State.setRamDraw (n : Nat) (s : State) : State := { s with ramDraw := n }

/-- The sticky mark of D3 and U1: an undocumented opcode has executed. -/
def State.markUndoc (s : State) : State := { s with undocExecuted := true }

end Sys2Proof.Machine
end

