-- ==== Sys2Proof/Machine/Flags.lean ====
section
/-! DEFINITION. The status byte (spec/10_state.md R40 to R43) and every flag computation of the instruction rules. -/

namespace Sys2Proof.Machine

/-- A flag at bit `k` of a byte. -/
def flagBit (k : Nat) (f : Bool) : Byte := if f then (1 : Byte) <<< k else 0

/-- `GET_SR()` (R40); bit 5 has no storage and reads 1 (R42). -/
def Flags.getSr (f : Flags) : Byte :=
  flagBit 0 f.c ||| flagBit 1 f.z ||| flagBit 2 f.i ||| flagBit 3 f.d ||| flagBit 4 f.b ||| 0x20 ||| flagBit 6 f.v
    ||| flagBit 7 f.n

/-- `SET_SR(v)` (R41); bit 5 of v is ignored. -/
def Flags.ofSr (v : Byte) : Flags :=
  ⟨v.getLsbD 0, v.getLsbD 1, v.getLsbD 2, v.getLsbD 3, v.getLsbD 4, v.getLsbD 6, v.getLsbD 7⟩

/-- The status byte that PHP and BRK push: bit 4 is 1 (R313, R407). -/
def Flags.pushedBySoftware (f : Flags) : Byte := f.getSr ||| 0x10

/-- The status byte that an NMI or IRQ entry pushes: bit 4 is 0 (R505, R506). -/
def Flags.pushedByInterrupt (f : Flags) : Byte := f.getSr &&& 0xEF

/-- `setZN(v)` (R43). -/
def Flags.setZN (v : Byte) (f : Flags) : Flags := { f with z := v == 0, n := v.getLsbD 7 }

/-- The exact sum A + M + C of R200, 0 to 511. -/
def adcSum (a m : Byte) (c : Bool) : Nat := a.toNat + m.toNat + c.toNat

/-- The 8-bit result of ADC (R200). -/
def adcResult (a m : Byte) (c : Bool) : Byte := BitVec.ofNat 8 (adcSum a m c)

/-- `overflow = (~(A ^ operand) & (A ^ result) & 0x80) != 0` (R200). -/
def signedOverflow (a m r : Byte) : Bool := (~~~(a ^^^ m) &&& (a ^^^ r) &&& 0x80) != 0

/-- C, V, Z and N after ADC of M to A (R200). -/
def Flags.afterAdc (a m : Byte) (f : Flags) : Flags :=
  let r := adcResult a m f.c
  Flags.setZN r { f with c := decide (0xFF < adcSum a m f.c), v := signedOverflow a m r }

/-- The one's complement of the operand that SBC adds (R201). -/
def sbcOperand (m : Byte) : Byte := 0xFF ^^^ m

/-- C, Z and N after comparing a register with M (R372). -/
def Flags.afterCompare (r m : Byte) (f : Flags) : Flags :=
  Flags.setZN (r - m) { f with c := decide (m.toNat ≤ r.toNat) }

/-- Z, N and V after BIT: N and V are bits 7 and 6 of the operand (R253). -/
def Flags.afterBit (a m : Byte) (f : Flags) : Flags :=
  { f with z := a &&& m == 0, n := m.getLsbD 7, v := m.getLsbD 6 }

/-- A shift or rotate (R254 to R257): from the carry-in and the operand, the carry-out and the result. -/
abbrev Shift := Bool → Byte → Bool × Byte

/-- ASL: bit 7 to C, 0 into bit 0 (R254). -/
def shiftLeft : Shift := fun _ v => (v.getLsbD 7, v <<< 1)

/-- LSR: bit 0 to C, 0 into bit 7 (R255). -/
def shiftRight : Shift := fun _ v => (v.getLsbD 0, v >>> 1)

/-- ROL: bit 7 to C, the old C into bit 0 (R256). -/
def rotateLeft : Shift := fun c v => (v.getLsbD 7, v <<< 1 ||| flagBit 0 c)

/-- ROR: bit 0 to C, the old C into bit 7 (R257). -/
def rotateRight : Shift := fun c v => (v.getLsbD 0, v >>> 1 ||| flagBit 7 c)

/-- C, Z and N after a shift or rotate with that carry-out and result (R254 to R257). -/
def Flags.afterShift (out : Bool × Byte) (f : Flags) : Flags := Flags.setZN out.2 { f with c := out.1 }

/-- `setZN(v)` on the state's flags (R43). -/
def State.setZN (v : Byte) (s : State) : State := s.setFlags (s.flags.setZN v)

/-- `I <- v` (R44). -/
def State.setInterruptDisable (v : Bool) (s : State) : State := s.setFlags { s.flags with i := v }

end Sys2Proof.Machine
end

