-- ==== Sys2Proof/Machine/Ops.lean ====
section
/-! DEFINITION. The bus with its two ports (spec/20_memory.md R80 to R99), the stack, the unmapped-address fault (R501),
taking an exception and returning from one (spec/60_exceptions.md). -/

namespace Sys2Proof.Machine

/-! ### The bus decoder -/

/-- The three handlers of the bus (R84). -/
inductive Handler where
  | ram
  | io
  | mapper
deriving DecidableEq, Repr

/-- The handler of an address (R84). -/
def handlerOf (a : Word) : Handler :=
  if a.toNat < 0x2000 then .ram else if 0x4020 ≤ a.toNat then .mapper else .io

/-- What a bus access answers: a value and the state after it, or the state in which the step stopped with the
unmapped-address fault. -/
inductive Access (α : Type) where
  | done (v : α) (s : State)
  | faulted (s : State)
deriving DecidableEq, Repr

/-- Go on with another access unless the first one faulted. -/
def Access.bind {α β : Type} (r : Access α) (k : α → State → Access β) : Access β :=
  match r with
  | .done v s => k v s
  | .faulted s => .faulted s

/-- Finish an instruction with what an access answered: a fault ends the step in the faulted state (R170). -/
def Access.andThen {α : Type} (r : Access α) (k : α → State → Result) : Result :=
  match r with
  | .done v s => k v s
  | .faulted s => .next s

/-- `raise Fault(UnmappedAddress(a))` (R501). The mark, once set, never changes (R52); every other item of R30 is
unspecified (R170, K6): a free value, the cycle counter at least what it was (R621). What the ports were asked before the
fault stays recorded. Log entry 5. -/
def State.raiseFault (a : Word) (s : State) : State where
  a := Config.faultByte s.draws 0
  x := Config.faultByte s.draws 1
  y := Config.faultByte s.draws 2
  sp := Config.faultByte s.draws 3
  pc := Config.faultPc s.draws
  flags := ⟨Config.faultBit s.draws 0, Config.faultBit s.draws 1, Config.faultBit s.draws 2, Config.faultBit s.draws 3,
    Config.faultBit s.draws 4, Config.faultBit s.draws 5, Config.faultBit s.draws 6⟩
  nmiPending := Config.faultBit s.draws 7
  irqPending := Config.faultBit s.draws 8
  cycles := s.cycles + Config.faultCycles s.draws
  ram := []
  fault := some (s.fault.getD a)
  mapper := s.mapper
  ioLog := s.ioLog
  draws := s.draws + 1
  ramDraw := s.draws
  undocExecuted := s.undocExecuted

/-! ### Internal RAM -/

/-- The cell of internal RAM that an address below 0x2000 selects: `a mod 0x0800` (R83). -/
def ramCell (a : Word) : Nat := a.toNat % 0x800

/-- A RAM read: the last value written, or the power-up draw (R83). -/
def State.ramRead (s : State) (a : Word) : Byte :=
  (s.ram.lookup (ramCell a)).getD (Config.powerUpRam s.ramDraw (ramCell a))

/-- A RAM write (R82, R83). -/
def State.ramWrite (a : Word) (v : Byte) (s : State) : State := s.setRam (s.ram.write ramBlank (ramCell a) v)

/-! ### The I/O port -/

/-- `ioRead(a)`: a fresh draw, recorded (R85, R94). -/
def State.ioRead (a : Word) (s : State) : Byte × State :=
  let v := Config.ioRead s.draws a
  (v, (s.logIo (.read a v)).countDraw)

/-- `ioWrite(a, v)`: recorded, with no effect on the core (R85). -/
def State.ioWrite (a : Word) (v : Byte) (s : State) : State := s.logIo (.write a v)

/-! ### The mapper port -/

/-- prgSize in bytes (R540). -/
def PrgSize.bytes : PrgSize → Nat
  | .kb16 => 0x4000
  | .kb32 => 0x8000

/-- The offset of an address in the PRG-ROM image (R540). -/
def Nrom.prgOffset (r : Nrom) (a : Word) : Nat := (a.toNat - 0x8000) % r.prgSize.bytes

/-- The address lies in the window of a PRG-RAM that is present (R540). -/
def Nrom.ramSelected (r : Nrom) (a : Word) : Bool := decide (0x6000 ≤ a.toNat ∧ a.toNat ≤ 0x7FFF) && r.hasPrgRam

/-- A byte of cartridge memory. -/
def cartridgeByte (m : Memory) (k : Nat) : Byte := (m.lookup k).getD (cartridgeBlank.getD 0)

/-- `mapRead(a)` of the NROM-style mapper (R540). -/
def Nrom.read (r : Nrom) (a : Word) : Option Byte :=
  if 0x8000 ≤ a.toNat then some (cartridgeByte r.prg (r.prgOffset a))
  else if r.ramSelected a then some (cartridgeByte r.prgRam (a.toNat - 0x6000))
  else none

/-- `mapWrite(a, v)` of the NROM-style mapper (R540). -/
def Nrom.write (r : Nrom) (a : Word) (v : Byte) : Nrom :=
  if r.ramSelected a then { r with prgRam := r.prgRam.write cartridgeBlank (a.toNat - 0x6000) v } else r

/-- What the mapper answers to a read (R86). -/
def Mapper.answer (a : Word) : Mapper → Option Byte
  | .nrom r => r.read a
  | .other served => Config.mapRead served a

/-- The mapper after a read: the NROM-style one has no side effect (R94). -/
def Mapper.afterRead (a : Word) : Mapper → Mapper
  | .nrom r => .nrom r
  | .other served => .other (.read a :: served)

/-- The mapper after a write (R86). -/
def Mapper.afterWrite (a : Word) (v : Byte) : Mapper → Mapper
  | .nrom r => .nrom (r.write a v)
  | .other served => .other (.write a v :: served)

/-- The cartridge's memories are in canonical form, and a PRG-RAM that is absent lists nothing. -/
def Mapper.wf : Mapper → Bool
  | .nrom r =>
    r.prg.wf r.prgSize.bytes cartridgeBlank && r.prgRam.wf (if r.hasPrgRam then 0x2000 else 0) cartridgeBlank
  | .other _ => true

/-- Every memory of the state is in canonical form. -/
def State.wf (s : State) : Bool := s.ram.wf 0x800 ramBlank && s.mapper.wf

/-! ### Byte and word access -/

/-- `MemRead(a, 1)` (R81). -/
def State.memRead (a : Word) (s : State) : Access Byte :=
  match handlerOf a with
  | .ram => .done (s.ramRead a) s
  | .io => .done (s.ioRead a).1 (s.ioRead a).2
  | .mapper =>
    match s.mapper.answer a with
    | some v => .done v (s.setMapper (s.mapper.afterRead a))
    | none => .faulted ((s.setMapper (s.mapper.afterRead a)).raiseFault a)

/-- `MemWrite(a, 1, v)`: never faults (R82). -/
def State.memWrite (a : Word) (v : Byte) (s : State) : State :=
  match handlerOf a with
  | .ram => s.ramWrite a v
  | .io => s.ioWrite a v
  | .mapper => s.setMapper (s.mapper.afterWrite a v)

/-- Read a low byte and then a high byte. -/
def State.readPair (lo hi : Word) (s : State) : Access Word :=
  (s.memRead lo).bind fun l s1 => (s1.memRead hi).bind fun h s2 => .done (wordOf h l) s2

/-- `MemRead(a, 2)`: little-endian, the low byte first, wrapping at 0xFFFF (R88). -/
def State.readWord (a : Word) (s : State) : Access Word := s.readPair a (a + 1)

/-- The second address of `ReadWordPW(a)`: the next byte of the same page (R89). -/
def nextInPage (a : Word) : Word := (a &&& 0xFF00) ||| ((a + 1) &&& 0x00FF)

/-- `ReadWordPW(a)` (R89). -/
def State.readWordPW (a : Word) (s : State) : Access Word := s.readPair a (nextInPage a)

/-- The word write of R90: low byte at a, then high byte at a + 1. Only the host uses it. -/
def State.writeWord (a w : Word) (s : State) : State :=
  (s.memWrite a (lowByte w)).memWrite (a + 1) (highByte w)

/-- The byte an address holds where reading it is an access of memory and not of a device whose answer is free: internal
RAM, and what an NROM-style cartridge answers. The model's read of one byte without the access; no rule uses it. -/
def State.byteAt (s : State) (a : Word) : Option Byte :=
  match handlerOf a with
  | .ram => some (s.ramRead a)
  | .io => none
  | .mapper => s.mapper.answer a

/-! ### The stack -/

/-- `0x0100 | SP` (R34). -/
def stackAddress (sp : Byte) : Word := 0x0100 ||| zext16 sp

/-- `Push(v)` (R95). -/
def State.push (v : Byte) (s : State) : State := (s.memWrite (stackAddress s.sp) v).setSp (s.sp - 1)

/-- `Pull()` (R96). -/
def State.pull (s : State) : Access Byte :=
  let s1 := s.setSp (s.sp + 1)
  s1.memRead (stackAddress s1.sp)

/-- Push a word, high byte first (R91, R311, R313). -/
def State.pushWord (w : Word) (s : State) : State := (s.push (highByte w)).push (lowByte w)

/-- Pull a word, low byte first (R312, R314). -/
def State.pullWord (s : State) : Access Word :=
  s.pull.bind fun lo s1 => s1.pull.bind fun hi s2 => .done (wordOf hi lo) s2

/-! ### Taking an exception and returning from one -/

/-- The NMI vector (R99). -/
def nmiVector : Word := 0xFFFA

/-- The RESET vector (R99). -/
def resetVector : Word := 0xFFFC

/-- The vector IRQ and BRK share (R99). -/
def irqVector : Word := 0xFFFE

/-- What R505, R506 and R313 have in common: push PC, high byte first, and the given status byte; set I; load PC from
the vector. The value answered is the handler's address. -/
def State.enterHandler (vector : Word) (status : Byte) (s : State) : Access Word :=
  ((((s.pushWord s.pc).push status).setInterruptDisable true).readWord vector).bind fun target s1 =>
    .done target (s1.setPc target)

/-- `NmiEntry()` (R505). -/
def State.nmiEntry (s : State) : Result :=
  (s.enterHandler nmiVector s.flags.pushedByInterrupt).andThen fun _ s1 =>
    .next ((s1.setNmiPending false).addCycles 7)

/-- `IrqEntry()` (R506). -/
def State.irqEntry (s : State) : Result :=
  (s.enterHandler irqVector s.flags.pushedByInterrupt).andThen fun _ s1 =>
    .next ((s1.setIrqPending false).addCycles 7)

/-- The return from an exception: pull the status into all seven flags, then PC, with nothing added (R314, R509). -/
def State.returnFromHandler (s : State) : Access Word :=
  s.pull.bind fun status s1 =>
    ((s1.setFlags (Flags.ofSr status)).pullWord).bind fun target s2 => .done target (s2.setPc target)

/-! ### Placing bytes from outside (a load, not a bus access) -/

/-- The address is backed by memory that a load can place a byte in: internal RAM, or an NROM-style cartridge's PRG-ROM
image or PRG-RAM. -/
def State.canPlace (s : State) (a : Word) : Bool :=
  match handlerOf a, s.mapper with
  | .ram, _ => true
  | .mapper, .nrom r => decide (0x8000 ≤ a.toNat) || r.ramSelected a
  | _, _ => false

/-- Place a byte in the memory behind an address; nothing where no memory is. -/
def State.placeByte (a : Word) (v : Byte) (s : State) : State :=
  match handlerOf a, s.mapper with
  | .ram, _ => s.ramWrite a v
  | .mapper, .nrom r =>
    if 0x8000 ≤ a.toNat then s.setMapper (.nrom { r with prg := r.prg.write cartridgeBlank (r.prgOffset a) v })
    else s.setMapper (.nrom (r.write a v))
  | _, _ => s

end Sys2Proof.Machine
end

