-- ==== Sys2Proof/Machine/Operands.lean ====
section
/-! DEFINITION. Every operand form: the effective address of each addressing mode (spec/30_encoding.md R142 to R152), Load and
Store (R153, R154), and the page-cross penalty (R155). The operand bytes were fetched with the instruction. -/

namespace Sys2Proof.Machine

/-- What an addressing mode yields: the effective address and the page-cross indicator. -/
structure Resolved where
  ea : Word
  crossed : Bool
deriving DecidableEq, Repr

/-- A base address with an index added: a full 16-bit add (R147, R148, R151). -/
def indexed (base : Word) (index : Byte) : Resolved :=
  let ea := base + zext16 index
  ⟨ea, pageCrossed base ea⟩

/-- Resolve a memory operand: perform the mode's own reads and form the effective address. -/
def State.resolve (m : Address) (s : State) : Access Resolved :=
  match m with
  | .zeroPage a => .done ⟨zext16 a, false⟩ s
  | .zeroPageX a => .done ⟨zext16 (a + s.x), false⟩ s
  | .zeroPageY a => .done ⟨zext16 (a + s.y), false⟩ s
  | .absolute w => .done ⟨w, false⟩ s
  | .absoluteX w => .done (indexed w s.x) s
  | .absoluteY w => .done (indexed w s.y) s
  | .indexedIndirect a => (s.readWordPW (zext16 (a + s.x))).bind fun ea s1 => .done ⟨ea, false⟩ s1
  | .indirectIndexed a => (s.readWordPW (zext16 a)).bind fun base s1 => .done (indexed base s1.y) s1

/-- An operand byte with the page-cross indicator of its mode. -/
structure Loaded where
  value : Byte
  crossed : Bool
deriving DecidableEq, Repr

/-- `Load(mode)` of a memory operand (R153). -/
def State.loadAddress (m : Address) (s : State) : Access Loaded :=
  (s.resolve m).bind fun r s1 => (s1.memRead r.ea).bind fun v s2 => .done ⟨v, r.crossed⟩ s2

/-- `Load(mode)` of a read-class operand (R153). The immediate byte was read with the instruction (log entry 10). -/
def State.load (src : Source) (s : State) : Access Loaded :=
  match src with
  | .immediate v => .done ⟨v, false⟩ s
  | .memory m => s.loadAddress m

/-- Read, transform and write back a memory cell: one read, one write of the same address (R258). The transform gives the
byte to store and the state to store it in. -/
def State.modifyAddress (m : Address) (f : Byte → State → Byte × State) (s : State) : Access Unit :=
  (s.resolve m).bind fun r s1 => (s1.memRead r.ea).bind fun v s2 =>
    let out := f v s2
    .done () (out.2.memWrite r.ea out.1)

/-- Read, transform and write back a shift operand (R153, R154, R258). -/
def State.modify (p : Place) (f : Byte → State → Byte × State) (s : State) : Access Unit :=
  match p with
  | .accumulator =>
    let out := f s.a s
    .done () (out.2.setA out.1)
  | .memory m => s.modifyAddress m f

/-- `Store(mode, v)` of a write-class instruction: no read of the target (R134, R154). -/
def State.storeAddress (m : Address) (v : Byte) (s : State) : Access Unit :=
  (s.resolve m).bind fun r s1 => .done () (s1.memWrite r.ea v)

/-- The target of JMP: absolute (R146), or read page-wrapped through the pointer (R149). -/
def State.jumpTarget (t : JumpTarget) (s : State) : Access Word :=
  match t with
  | .absolute w => .done w s
  | .indirect pointer => s.readWordPW pointer

/-- The page-cross penalty of R155 for the nine instructions that take it. -/
def pagePenalty (crossed : Bool) : Nat := if crossed then 1 else 0

/-- No page-cross penalty: the instruction is none of the nine of R155. -/
def noPenalty (_crossed : Bool) : Nat := 0

/-! ### The shared shapes of an instruction's meaning -/

/-- A read-class instruction (R134): load the operand, apply the effect, add the cycles (R171). -/
def readThen (src : Source) (base : Nat) (penalty : Bool → Nat) (effect : Byte → State → State) (s : State) : Result :=
  (s.load src).andThen fun l s1 => .next ((effect l.value s1).addCycles (base + penalty l.crossed))

/-- A write-class instruction (R134). -/
def storeThen (m : Address) (base : Nat) (v : Byte) (s : State) : Result :=
  (s.storeAddress m v).andThen fun _ s1 => .next (s1.addCycles base)

/-- A shift or rotate (R254 to R258). -/
def shiftThen (p : Place) (base : Nat) (shift : Shift) (s : State) : Result :=
  (s.modify p fun v s1 =>
    let out := shift s1.flags.c v
    (out.2, s1.setFlags (s1.flags.afterShift out))).andThen fun _ s1 => .next (s1.addCycles base)

/-- INC and DEC (R367, R368): the new byte, with Z and N from it. -/
def stepThen (m : Address) (base : Nat) (next : Byte → Byte) (s : State) : Result :=
  (s.modifyAddress m fun v s1 => (next v, s1.setZN (next v))).andThen fun _ s1 => .next (s1.addCycles base)

/-- An instruction with no operand and no bus access: its effect, then its cycles (R171). -/
def impliedThen (base : Nat) (effect : State → State) (s : State) : Result := .next ((effect s).addCycles base)

/-- The branch target: relative to the PC after the instruction (R152). -/
def branchTarget (pc : Word) (disp : Byte) : Word := pc + sext16 disp

/-- `branchExtra` of a taken branch (R300). -/
def branchExtra (pc target : Word) : Nat := if pageCrossed pc target then 2 else 1

/-- A branch (R300); PC already holds opPC + 2. -/
def branchThen (cond : Bool) (disp : Byte) (base : Nat) (s : State) : Result :=
  if cond then
    let target := branchTarget s.pc disp
    .next ((s.setPc target).addCycles (base + branchExtra s.pc target))
  else .next (s.addCycles base)

end Sys2Proof.Machine
end

