-- ==== Sys2Proof/Machine/Arithmetic.lean ====
section
/-! DEFINITION. ADC and SBC (spec/40_arithmetic.md). -/

namespace Sys2Proof.Machine

/-- Add M and C to A (R200); D is not read (R202). -/
def State.addWithCarry (m : Byte) (s : State) : State :=
  (s.setFlags (s.flags.afterAdc s.a m)).setA (adcResult s.a m s.flags.c)

/-- ADC (R200). -/
def execAdc (src : Source) (s : State) : Result :=
  readThen src (Instr.baseCycles (.adc src)) pagePenalty (fun m s1 => s1.addWithCarry m) s

/-- SBC (R201): ADC of the one's complement of M. -/
def execSbc (src : Source) (s : State) : Result :=
  readThen src (Instr.baseCycles (.sbc src)) pagePenalty (fun m s1 => s1.addWithCarry (sbcOperand m)) s

end Sys2Proof.Machine
end

