-- ==== Sys2Proof/Machine/Branch.lean ====
section
/-! DEFINITION. The eight branches (spec/42_control.md R300 to R308). -/

namespace Sys2Proof.Machine

/-- BCC: branch if C = 0 (R301). -/
def execBcc (disp : Byte) (s : State) : Result := branchThen (!s.flags.c) disp (Instr.baseCycles (.bcc disp)) s

/-- BCS: branch if C = 1 (R302). -/
def execBcs (disp : Byte) (s : State) : Result := branchThen s.flags.c disp (Instr.baseCycles (.bcs disp)) s

/-- BEQ: branch if Z = 1 (R303). -/
def execBeq (disp : Byte) (s : State) : Result := branchThen s.flags.z disp (Instr.baseCycles (.beq disp)) s

/-- BNE: branch if Z = 0 (R304). -/
def execBne (disp : Byte) (s : State) : Result := branchThen (!s.flags.z) disp (Instr.baseCycles (.bne disp)) s

/-- BMI: branch if N = 1 (R305). -/
def execBmi (disp : Byte) (s : State) : Result := branchThen s.flags.n disp (Instr.baseCycles (.bmi disp)) s

/-- BPL: branch if N = 0 (R306). -/
def execBpl (disp : Byte) (s : State) : Result := branchThen (!s.flags.n) disp (Instr.baseCycles (.bpl disp)) s

/-- BVC: branch if V = 0 (R307). -/
def execBvc (disp : Byte) (s : State) : Result := branchThen (!s.flags.v) disp (Instr.baseCycles (.bvc disp)) s

/-- BVS: branch if V = 1 (R308). -/
def execBvs (disp : Byte) (s : State) : Result := branchThen s.flags.v disp (Instr.baseCycles (.bvs disp)) s

end Sys2Proof.Machine
end

