-- ==== Sys2Proof/Machine/Compare.lean ====
section
/-! DEFINITION. CMP, CPX and CPY (spec/43_register_flag.md R369 to R372). Of the three only CMP takes the page-cross penalty
(R155). -/

namespace Sys2Proof.Machine

/-- CMP (R369). -/
def execCmp (src : Source) (s : State) : Result :=
  readThen src (Instr.baseCycles (.cmp src)) pagePenalty (fun m s1 => s1.setFlags (s1.flags.afterCompare s1.a m)) s

/-- CPX (R370). -/
def execCpx (src : Source) (s : State) : Result :=
  readThen src (Instr.baseCycles (.cpx src)) noPenalty (fun m s1 => s1.setFlags (s1.flags.afterCompare s1.x m)) s

/-- CPY (R371). -/
def execCpy (src : Source) (s : State) : Result :=
  readThen src (Instr.baseCycles (.cpy src)) noPenalty (fun m s1 => s1.setFlags (s1.flags.afterCompare s1.y m)) s

end Sys2Proof.Machine
end

