-- ==== Sys2Proof/Machine/Control.lean ====
section
/-! DEFINITION. JMP, JSR, RTS, BRK and RTI (spec/42_control.md R309 to R314). PC already holds opPC + length (R35). -/

namespace Sys2Proof.Machine

/-- JMP (R309). -/
def execJmp (t : JumpTarget) (s : State) : Result :=
  (s.jumpTarget t).andThen fun target s1 => .next ((s1.setPc target).addCycles (Instr.baseCycles (.jmp t)))

/-- JSR (R311): push the address of its own last byte, then jump. -/
def execJsr (target : Word) (s : State) : Result :=
  .next (((s.pushWord (s.pc - 1)).setPc target).addCycles (Instr.baseCycles (.jsr target)))

/-- RTS (R312). -/
def execRts (s : State) : Result :=
  s.pullWord.andThen fun target s1 => .next ((s1.setPc (target + 1)).addCycles (Instr.baseCycles .rts))

/-- BRK (R313): the exception entry with bit 4 of the pushed status 1; PC already points past the pad byte. -/
def execBrk (s : State) : Result :=
  (s.enterHandler irqVector s.flags.pushedBySoftware).andThen fun _ s1 => .next (s1.addCycles (Instr.baseCycles .brk))

/-- RTI (R314). -/
def execRti (s : State) : Result :=
  s.returnFromHandler.andThen fun _ s1 => .next (s1.addCycles (Instr.baseCycles .rti))

end Sys2Proof.Machine
end

