-- ==== Sys2Proof/Machine/FlagOps.lean ====
section
/-! DEFINITION. CLC, SEC, CLI, SEI, CLD, SED and CLV (spec/43_register_flag.md R350 to R356). -/

namespace Sys2Proof.Machine

/-- CLC (R350). -/
def execClc (s : State) : Result :=
  impliedThen (Instr.baseCycles .clc) (fun s1 => s1.setFlags { s1.flags with c := false }) s

/-- SEC (R351). -/
def execSec (s : State) : Result :=
  impliedThen (Instr.baseCycles .sec) (fun s1 => s1.setFlags { s1.flags with c := true }) s

/-- CLI (R352). -/
def execCli (s : State) : Result := impliedThen (Instr.baseCycles .cli) (fun s1 => s1.setInterruptDisable false) s

/-- SEI (R353). -/
def execSei (s : State) : Result := impliedThen (Instr.baseCycles .sei) (fun s1 => s1.setInterruptDisable true) s

/-- CLD (R354). -/
def execCld (s : State) : Result :=
  impliedThen (Instr.baseCycles .cld) (fun s1 => s1.setFlags { s1.flags with d := false }) s

/-- SED (R355). -/
def execSed (s : State) : Result :=
  impliedThen (Instr.baseCycles .sed) (fun s1 => s1.setFlags { s1.flags with d := true }) s

/-- CLV (R356). -/
def execClv (s : State) : Result :=
  impliedThen (Instr.baseCycles .clv) (fun s1 => s1.setFlags { s1.flags with v := false }) s

end Sys2Proof.Machine
end

