-- ==== Sys2Proof/Machine/IncDec.lean ====
section
/-! DEFINITION. INX, INY, DEX, DEY, INC and DEC (spec/43_register_flag.md R363 to R368). -/

namespace Sys2Proof.Machine

/-- INX (R363). -/
def execInx (s : State) : Result :=
  impliedThen (Instr.baseCycles .inx) (fun s1 => (s1.setX (s1.x + 1)).setZN (s1.x + 1)) s

/-- INY (R364). -/
def execIny (s : State) : Result :=
  impliedThen (Instr.baseCycles .iny) (fun s1 => (s1.setY (s1.y + 1)).setZN (s1.y + 1)) s

/-- DEX (R365). -/
def execDex (s : State) : Result :=
  impliedThen (Instr.baseCycles .dex) (fun s1 => (s1.setX (s1.x - 1)).setZN (s1.x - 1)) s

/-- DEY (R366). -/
def execDey (s : State) : Result :=
  impliedThen (Instr.baseCycles .dey) (fun s1 => (s1.setY (s1.y - 1)).setZN (s1.y - 1)) s

/-- INC (R367). -/
def execInc (m : Address) (s : State) : Result := stepThen m (Instr.baseCycles (.inc m)) (fun v => v + 1) s

/-- DEC (R368). -/
def execDec (m : Address) (s : State) : Result := stepThen m (Instr.baseCycles (.dec m)) (fun v => v - 1) s

end Sys2Proof.Machine
end

