-- ==== Sys2Proof/Machine/LoadStore.lean ====
section
/-! DEFINITION. LDA, LDX, LDY, STA, STX and STY (spec/44_load_store_stack.md R400 to R405). -/

namespace Sys2Proof.Machine

/-- LDA (R400). -/
def execLda (src : Source) (s : State) : Result :=
  readThen src (Instr.baseCycles (.lda src)) pagePenalty (fun m s1 => (s1.setA m).setZN m) s

/-- LDX (R401). -/
def execLdx (src : Source) (s : State) : Result :=
  readThen src (Instr.baseCycles (.ldx src)) pagePenalty (fun m s1 => (s1.setX m).setZN m) s

/-- LDY (R402). -/
def execLdy (src : Source) (s : State) : Result :=
  readThen src (Instr.baseCycles (.ldy src)) pagePenalty (fun m s1 => (s1.setY m).setZN m) s

/-- STA (R403). -/
def execSta (m : Address) (s : State) : Result := storeThen m (Instr.baseCycles (.sta m)) s.a s

/-- STX (R404). -/
def execStx (m : Address) (s : State) : Result := storeThen m (Instr.baseCycles (.stx m)) s.x s

/-- STY (R405). -/
def execSty (m : Address) (s : State) : Result := storeThen m (Instr.baseCycles (.sty m)) s.y s

end Sys2Proof.Machine
end

