-- ==== Sys2Proof/Machine/Logic.lean ====
section
/-! DEFINITION. AND, ORA, EOR and BIT (spec/41_logic_shift.md). -/

namespace Sys2Proof.Machine

/-- AND (R250). -/
def execAnd (src : Source) (s : State) : Result :=
  readThen src (Instr.baseCycles (.and src)) pagePenalty (fun m s1 => (s1.setZN (s1.a &&& m)).setA (s1.a &&& m)) s

/-- ORA (R251). -/
def execOra (src : Source) (s : State) : Result :=
  readThen src (Instr.baseCycles (.ora src)) pagePenalty (fun m s1 => (s1.setZN (s1.a ||| m)).setA (s1.a ||| m)) s

/-- EOR (R252). -/
def execEor (src : Source) (s : State) : Result :=
  readThen src (Instr.baseCycles (.eor src)) pagePenalty (fun m s1 => (s1.setZN (s1.a ^^^ m)).setA (s1.a ^^^ m)) s

/-- BIT (R253); A is not written. -/
def execBit (m : Address) (s : State) : Result :=
  readThen (.memory m) (Instr.baseCycles (.bit m)) noPenalty (fun v s1 => s1.setFlags (s1.flags.afterBit s1.a v)) s

end Sys2Proof.Machine
end

