-- ==== Sys2Proof/Machine/Nop.lean ====
section
/-! DEFINITION. NOP and the undocumented opcode bytes (spec/45_nop_undocumented.md). -/

namespace Sys2Proof.Machine

/-- NOP (R450). -/
def execNop (s : State) : Result := impliedThen (Instr.baseCycles .nop) (fun s1 => s1) s

/-- UNDOC (R451): a no-op, which sets the model's own sticky mark (D3, U1, log entry 9). -/
def execUndoc (opcode : Byte) (s : State) : Result :=
  impliedThen (Instr.baseCycles (.undoc opcode)) (fun s1 => s1.markUndoc) s

end Sys2Proof.Machine
end

