-- ==== Sys2Proof/Machine/Shift.lean ====
section
/-! DEFINITION. ASL, LSR, ROL and ROR, on A or on memory with the write-back of R258 (spec/41_logic_shift.md). -/

namespace Sys2Proof.Machine

/-- ASL (R254). -/
def execAsl (p : Place) (s : State) : Result := shiftThen p (Instr.baseCycles (.asl p)) shiftLeft s

/-- LSR (R255). -/
def execLsr (p : Place) (s : State) : Result := shiftThen p (Instr.baseCycles (.lsr p)) shiftRight s

/-- ROL (R256). -/
def execRol (p : Place) (s : State) : Result := shiftThen p (Instr.baseCycles (.rol p)) rotateLeft s

/-- ROR (R257). -/
def execRor (p : Place) (s : State) : Result := shiftThen p (Instr.baseCycles (.ror p)) rotateRight s

end Sys2Proof.Machine
end

