-- ==== Sys2Proof/Machine/Stack.lean ====
section
/-! DEFINITION. PHA, PHP, PLA and PLP (spec/44_load_store_stack.md R406 to R409). -/

namespace Sys2Proof.Machine

/-- PHA (R406). -/
def execPha (s : State) : Result := impliedThen (Instr.baseCycles .pha) (fun s1 => s1.push s1.a) s

/-- PHP (R407): bits 4 and 5 are pushed as 1, the stored B is not changed. -/
def execPhp (s : State) : Result := impliedThen (Instr.baseCycles .php) (fun s1 => s1.push s1.flags.pushedBySoftware) s

/-- PLA (R408). -/
def execPla (s : State) : Result :=
  s.pull.andThen fun v s1 => .next (((s1.setA v).setZN v).addCycles (Instr.baseCycles .pla))

/-- PLP (R409): all seven flags take the pulled byte's bits. -/
def execPlp (s : State) : Result :=
  s.pull.andThen fun v s1 => .next ((s1.setFlags (Flags.ofSr v)).addCycles (Instr.baseCycles .plp))

end Sys2Proof.Machine
end

