-- ==== Sys2Proof/Machine/Transfer.lean ====
section
/-! DEFINITION. TAX, TAY, TXA, TYA, TSX and TXS (spec/43_register_flag.md R357 to R362). -/

namespace Sys2Proof.Machine

/-- TAX (R357). -/
def execTax (s : State) : Result := impliedThen (Instr.baseCycles .tax) (fun s1 => (s1.setX s1.a).setZN s1.a) s

/-- TAY (R358). -/
def execTay (s : State) : Result := impliedThen (Instr.baseCycles .tay) (fun s1 => (s1.setY s1.a).setZN s1.a) s

/-- TXA (R359). -/
def execTxa (s : State) : Result := impliedThen (Instr.baseCycles .txa) (fun s1 => (s1.setA s1.x).setZN s1.x) s

/-- TYA (R360). -/
def execTya (s : State) : Result := impliedThen (Instr.baseCycles .tya) (fun s1 => (s1.setA s1.y).setZN s1.y) s

/-- TSX (R361). -/
def execTsx (s : State) : Result := impliedThen (Instr.baseCycles .tsx) (fun s1 => (s1.setX s1.sp).setZN s1.sp) s

/-- TXS (R362): no flag is written. -/
def execTxs (s : State) : Result := impliedThen (Instr.baseCycles .txs) (fun s1 => s1.setSp s1.x) s

end Sys2Proof.Machine
end

