-- ==== Sys2Proof/Machine/Fetch.lean ====
section
/-! DEFINITION. Fetching an instruction through the bus (spec/30_encoding.md R170; spec/20_memory.md R87). -/

namespace Sys2Proof.Machine

/-- Read the operand bytes that the opcode's mode reads, in order (R140 to R152), and give the instruction. -/
def State.fetchOperands (opPC : Word) (opcode : Byte) (s : State) : Access Instr :=
  match (Instr.ofBytes opcode 0 0).operandBytes with
  | 0 => .done (Instr.ofBytes opcode 0 0) s
  | 1 => (s.memRead (opPC + 1)).bind fun op1 s1 => .done (Instr.ofBytes opcode op1 0) s1
  | _ =>
    (s.memRead (opPC + 1)).bind fun op1 s1 => (s1.memRead (opPC + 2)).bind fun op2 s2 =>
      .done (Instr.ofBytes opcode op1 op2) s2

/-- Fetch the instruction at PC and advance PC past it (R170, R131). -/
def State.fetch (s : State) : Access Instr :=
  (s.memRead s.pc).bind fun opcode s1 => (s1.fetchOperands s.pc opcode).bind fun i s2 =>
    .done i (s2.setPc (s.pc + BitVec.ofNat 16 i.length))

/-- The state with three bytes placed at consecutive addresses. -/
def State.placeThree (a : Word) (b0 b1 b2 : Byte) (s : State) : State :=
  ((s.placeByte a b0).placeByte (a + 1) b1).placeByte (a + 2) b2

/-- All three bytes from the address on can be placed. -/
def State.canPlaceThree (s : State) (a : Word) : Bool := s.canPlace a && s.canPlace (a + 1) && s.canPlace (a + 2)

/-- The state about to fetch at an address where an instruction can be placed, with nothing before it: no fault, no
interrupt to take. PC is moved to 0x0000 (internal RAM) only where the bytes at PC are not backed by memory. -/
def State.readyToFetch (s : State) : State :=
  let s1 := ((s.setFault none).setNmiPending false).setIrqPending (s.irqPending && s.flags.i)
  if s1.canPlaceThree s1.pc then s1 else s1.setPc 0x0000

end Sys2Proof.Machine
end

