-- ==== Sys2Proof/Machine/Step.lean ====
section
/-! DEFINITION. The step (spec/30_encoding.md R170) and the load of one instruction where it is fetched next. -/

namespace Sys2Proof.Machine

/-- `Step()` (R170): a faulted machine does not change (R501); else an NMI entry, an IRQ entry or one instruction, in the
order of R503. -/
def step (s : State) : Host.Outcome State Fault Refusal :=
  match s.fault with
  | some _ => .next s
  | none =>
    if s.nmiPending then s.nmiEntry
    else if s.irqPending && !s.flags.i then s.irqEntry
    else s.fetch.andThen exec

/-- The state with an instruction of the given bits placed where the next step fetches it (log entry 1). -/
def State.withFetchWord (s : State) (nbits w : Nat) : State :=
  match tableBytes nbits w with
  | [b0, b1, b2] => s.readyToFetch.placeThree s.readyToFetch.pc b0 b1 b2
  | _ => s

end Sys2Proof.Machine
end

