-- ==== Sys2Proof/Machine/HostInterface.lean ====
section
/-! DEFINITION. What the host may do to the core between two steps, beside Step (spec/70_reset_and_hazards.md R600 to R603,
R620; spec/60_exceptions.md R545). No operation withdraws a latch and none acts within a step (R614). -/

namespace Sys2Proof.Machine

/-- The parameters and draws of PowerUp (R6): `POWERUP_PC`, `POWERUP_SP`, `POWERUP_FLAGS`, `POWERUP_IO_CLEAR`. `POWERUP_RAM` is the free value `Config.powerUpRam` at a fresh draw. -/
structure PowerUpInputs where
  pc : Word
  sp : Byte
  flags : Flags
  ioClear : IoSet
deriving DecidableEq, Repr

/-- Write 0x00 to each address of the I/O set, ascending (R601). -/
def State.clearIo (set : IoSet) (s : State) : State :=
  set.addresses.foldl (fun s1 a => s1.ioWrite a 0x00) s

/-- `PowerUp()` (R601). The cartridge stays in place (R603). -/
def State.powerUp (p : PowerUpInputs) (s : State) : State :=
  State.clearIo p.ioClear
    { s with
      a := 0x00, x := 0x00, y := 0x00, pc := p.pc, sp := p.sp, flags := p.flags, ram := [], ramDraw := s.draws,
      draws := s.draws + 1, nmiPending := false, irqPending := false, cycles := 0, fault := none }

/-- `Reset()` (R602), with `RESET_IO_CLEAR`. If the vector read faults, the mark is set and PC, which gets no vector, is a free
value; every other item is as R602 says (log entry 5). -/
def State.hostReset (ioClear : IoAddress) (s : State) : State :=
  let s1 := ((s.setSp (s.sp - 3)).setInterruptDisable true).ioWrite ioClear.value 0x00
  match s1.readWord resetVector with
  | .done target s2 => s2.setPc target
  | .faulted s2 => { s1 with pc := s2.pc, fault := s2.fault, mapper := s2.mapper, ioLog := s2.ioLog, draws := s2.draws }

/-- `SetNMI()` (R545, R620). -/
def State.requestNmi (s : State) : State := s.setNmiPending true

/-- `SetIRQ()` (R545, R620). -/
def State.requestIrq (s : State) : State := s.setIrqPending true

/-- `ClearRAM()` (R620): every cell of internal RAM becomes 0x00. -/
def State.clearRam (s : State) : State := s.setRam (Memory.filled 0x800 0x00)

/-- The cartridge loader's hand-over before PowerUp (R603, step 1). -/
def State.insertCartridge (m : Mapper) (s : State) : State := s.setMapper m

/-- What a snapshot read returns (R620). -/
structure Snapshot where
  a : Byte
  x : Byte
  y : Byte
  sp : Byte
  pc : Word
  status : Byte
  nmiPending : Bool
  irqPending : Bool
  cycles : Nat
  ram : List Byte
  fault : Option Word
deriving DecidableEq, Repr

/-- The snapshot read of R620. -/
def State.snapshot (s : State) : Snapshot where
  a := s.a
  x := s.x
  y := s.y
  sp := s.sp
  pc := s.pc
  status := s.flags.getSr
  nmiPending := s.nmiPending
  irqPending := s.irqPending
  cycles := s.cycles
  ram := (List.range 0x800).map fun k => s.ramRead (BitVec.ofNat 16 k)
  fault := s.fault

/-- What a snapshot write sets (R620); `ram` is the 2048 bytes. -/
structure SnapshotWrite where
  a : Byte
  x : Byte
  y : Byte
  sp : Byte
  pc : Word
  status : Byte
  ram : Vector Byte 0x800
deriving DecidableEq, Repr

/-- The snapshot write of R620. -/
def State.writeSnapshot (w : SnapshotWrite) (s : State) : State :=
  { s with
    a := w.a, x := w.x, y := w.y, sp := w.sp, pc := w.pc, flags := Flags.ofSr w.status,
    ram := w.ram.toList.zipIdx.map fun c => (c.2, c.1) }

end Sys2Proof.Machine
end

