-- ==== Sys2Proof/Safety.lean ====
section
/-! DEFINITION. What counts as a safe step and a safe run, and the relations the claims are stated with. -/

namespace Sys2Proof.Machine

/-- No fatal fault has happened (R52). -/
def State.running (s : State) : Bool := s.fault.isNone

/-- The step's tests find no fault and no interrupt to take, so that the step runs one instruction (R170, R503). -/
def State.quiet (s : State) : Bool := s.running && !s.nmiPending && (!s.irqPending || s.flags.i)

/-- The step goes from s to t and meets no unmapped address (R170: a claim takes "no fault" as a premise). -/
def SafeStep (s t : State) : Prop := step s = .next t ∧ t.running = true

/-- A run of n safe steps, with nothing done by the host in between. -/
inductive SafeRun : State → Nat → State → Prop where
  | none (s : State) : SafeRun s 0 s
  | more {s t u : State} {n : Nat} : SafeRun s n t → SafeStep t u → SafeRun s (n + 1) u

/-- A safe run that says something of the silicon: no undocumented opcode has executed (U1). -/
def SiliconRun (s : State) (n : Nat) (t : State) : Prop := SafeRun s n t ∧ t.undocExecuted = false

/-- The end (b) of R622: t is the first state between steps whose PC is the halt address, n safe steps after s. -/
def RunToHalt (s : State) (halt : Word) (n : Nat) (t : State) : Prop :=
  SafeRun s n t ∧ t.pc = halt ∧ ∀ k u, k < n → SafeRun s k u → u.pc ≠ halt

/-- The two states differ at most in what the ports were asked: the mapper, the I/O log and the count of draws. -/
def SameCore (s t : State) : Prop := t = { s with mapper := t.mapper, ioLog := t.ioLog, draws := t.draws }

/-- The two states hold the same byte at an address of internal RAM or of an NROM-style cartridge; the byte of a device
whose answers are free is no memory. -/
def SameByte (s t : State) (a : Word) : Prop :=
  (handlerOf a = .ram → t.ramRead a = s.ramRead a) ∧
  (handlerOf a = .mapper → ∀ r, s.mapper = .nrom r → t.byteAt a = s.byteAt a)

/-- The two addresses name one cell: they are equal, or they are mirrors of one RAM cell (R83). -/
def sameCell (a b : Word) : Prop := a = b ∨ (handlerOf a = .ram ∧ handlerOf b = .ram ∧ ramCell a = ramCell b)

end Sys2Proof.Machine
end

