-- ==== Sys2Proof/Certificates/Slice0/Obligations.lean ====
section
/-! DEFINITION. The statements about the model, for the provers. The definitions under Sys2Proof.Claims are the vocabulary they are
written in; each obligation is a def Obligations.<Name> : Prop. -/

namespace Sys2Proof.Claims

open Sys2Proof.Machine

/-- The byte that fetching reads at an address of memory, in a state where reading it changes nothing. -/
def codeByte (s : State) (a : Word) (v : Byte) : Prop :=
  s.byteAt a = some v ∧ (handlerOf a = .mapper → ∃ r, s.mapper = .nrom r)

/-- The state of an exception entry after its pushes (R508) and with I set, before the vector is read. -/
def framed (s : State) (status : Byte) : State :=
  { ((s.ramWrite (stackAddress s.sp) (highByte s.pc)).ramWrite (stackAddress (s.sp - 1)) (lowByte s.pc)).ramWrite
      (stackAddress (s.sp - 2)) status with
    sp := s.sp - 3
    flags := { s.flags with i := true } }

/-- The state with Z and N set from a byte (R43). -/
def withZN (s : State) (v : Byte) : State := { s with flags := { s.flags with z := v == 0, n := v.getLsbD 7 } }

/-- The state with a byte in A and Z and N set from it. -/
def resultInA (s : State) (v : Byte) : State := { withZN s v with a := v }

/-- The state with a byte in X and Z and N set from it. -/
def resultInX (s : State) (v : Byte) : State := { withZN s v with x := v }

/-- The state with a byte in Y and Z and N set from it. -/
def resultInY (s : State) (v : Byte) : State := { withZN s v with y := v }

/-- The state with C, Z and N of a shift (R254 to R257). -/
def shiftFlags (s : State) (carry : Bool) (r : Byte) : State :=
  { s with flags := { s.flags with c := carry, z := r == 0, n := r.getLsbD 7 } }

/-- The state with C, Z and N of comparing a register with a byte (R372). -/
def compared (s : State) (r m : Byte) : State :=
  { s with flags := { s.flags with c := decide (r.toNat ≥ m.toNat), z := r == m, n := (r - m).getLsbD 7 } }

/-- The state after a branch with that condition (R300): taken, it costs 3 cycles and 1 more across a page; else 2. -/
def branched (s : State) (cond : Bool) (disp : Byte) : State :=
  if cond then
    { s with
      pc := s.pc + sext16 disp
      cycles := s.cycles + 3 + (if highByte s.pc = highByte (s.pc + sext16 disp) then 0 else 1) }
  else { s with cycles := s.cycles + 2 }

/-- The state with more cycles counted. -/
def spent (s : State) (n : Nat) : State := { s with cycles := s.cycles + n }

/-- The extra cycle of a crossed page (R155). -/
def penaltyOf (l : Loaded) : Nat := if l.crossed then 1 else 0

/-- The operand of a read-class instruction (R134). -/
def sourceOf : Instr → Option Source
  | .adc src | .sbc src | .and src | .ora src | .eor src | .cmp src | .cpx src | .cpy src | .lda src | .ldx src
  | .ldy src => some src
  | .bit m => some (.memory m)
  | .asl _ | .lsr _ | .rol _ | .ror _ | .bcc _ | .bcs _ | .beq _ | .bne _ | .bmi _ | .bpl _ | .bvc _ | .bvs _
  | .jmp _ | .jsr _ | .rts | .brk | .rti | .clc | .sec | .cli | .sei | .cld | .sed | .clv | .tax | .tay | .txa
  | .tya | .tsx | .txs | .inx | .iny | .dex | .dey | .inc _ | .dec _ | .sta _ | .stx _ | .sty _ | .pha | .php | .pla
  | .plp | .nop | .undoc _ => none

/-- The memory operand of a read-modify-write instruction (R134). -/
def modifiedOf : Instr → Option Address
  | .asl (.memory m) | .lsr (.memory m) | .rol (.memory m) | .ror (.memory m) | .inc m | .dec m => some m
  | .adc _ | .sbc _ | .and _ | .ora _ | .eor _ | .bit _ | .asl .accumulator | .lsr .accumulator | .rol .accumulator
  | .ror .accumulator | .bcc _ | .bcs _ | .beq _ | .bne _ | .bmi _ | .bpl _ | .bvc _ | .bvs _ | .jmp _ | .jsr _
  | .rts | .brk | .rti | .clc | .sec | .cli | .sei | .cld | .sed | .clv | .tax | .tay | .txa | .tya | .tsx | .txs
  | .inx | .iny | .dex | .dey | .cmp _ | .cpx _ | .cpy _ | .lda _ | .ldx _ | .ldy _ | .sta _ | .stx _ | .sty _
  | .pha | .php | .pla | .plp | .nop | .undoc _ => none

/-- The memory operand a write-class or read-modify-write instruction stores to (R134). -/
def storedOf : Instr → Option Address
  | .sta m | .stx m | .sty m => some m
  | .asl (.memory m) | .lsr (.memory m) | .rol (.memory m) | .ror (.memory m) | .inc m | .dec m => some m
  | .asl .accumulator | .lsr .accumulator | .rol .accumulator | .ror .accumulator | .adc _ | .sbc _ | .and _
  | .ora _ | .eor _ | .bit _ | .bcc _ | .bcs _ | .beq _ | .bne _ | .bmi _ | .bpl _ | .bvc _ | .bvs _ | .jmp _
  | .jsr _ | .rts | .brk | .rti | .clc | .sec | .cli | .sei | .cld | .sed | .clv | .tax | .tay | .txa | .tya | .tsx
  | .txs | .inx | .iny | .dex | .dey | .cmp _ | .cpx _ | .cpy _ | .lda _ | .ldx _ | .ldy _ | .pha | .php | .pla
  | .plp | .nop | .undoc _ => none

/-- How many bytes the instruction pushes (R311, R313, R406, R407). -/
def pushedBytes : Instr → Nat
  | .pha | .php => 1
  | .jsr _ => 2
  | .brk => 3
  | .adc _ | .sbc _ | .and _ | .ora _ | .eor _ | .bit _ | .asl _ | .lsr _ | .rol _ | .ror _ | .bcc _ | .bcs _
  | .beq _ | .bne _ | .bmi _ | .bpl _ | .bvc _ | .bvs _ | .jmp _ | .rts | .rti | .clc | .sec | .cli | .sei | .cld
  | .sed | .clv | .tax | .tay | .txa | .tya | .tsx | .txs | .inx | .iny | .dex | .dey | .inc _ | .dec _ | .cmp _
  | .cpx _ | .cpy _ | .lda _ | .ldx _ | .ldy _ | .sta _ | .stx _ | .sty _ | .pla | .plp | .nop | .undoc _ => 0

/-- The instructions that write A (R31). -/
def writesA : Instr → Bool
  | .lda _ | .pla | .txa | .tya | .adc _ | .sbc _ | .and _ | .ora _ | .eor _ => true
  | .asl .accumulator | .lsr .accumulator | .rol .accumulator | .ror .accumulator => true
  | .bit _ | .asl (.memory _) | .lsr (.memory _) | .rol (.memory _) | .ror (.memory _) | .bcc _ | .bcs _ | .beq _
  | .bne _ | .bmi _ | .bpl _ | .bvc _ | .bvs _ | .jmp _ | .jsr _ | .rts | .brk | .rti | .clc | .sec | .cli | .sei
  | .cld | .sed | .clv | .tax | .tay | .tsx | .txs | .inx | .iny | .dex | .dey | .inc _ | .dec _ | .cmp _ | .cpx _
  | .cpy _ | .ldx _ | .ldy _ | .sta _ | .stx _ | .sty _ | .pha | .php | .plp | .nop | .undoc _ => false

/-- The instructions that write X (R32). -/
def writesX : Instr → Bool
  | .ldx _ | .tax | .tsx | .inx | .dex => true
  | .adc _ | .sbc _ | .and _ | .ora _ | .eor _ | .bit _ | .asl _ | .lsr _ | .rol _ | .ror _ | .bcc _ | .bcs _
  | .beq _ | .bne _ | .bmi _ | .bpl _ | .bvc _ | .bvs _ | .jmp _ | .jsr _ | .rts | .brk | .rti | .clc | .sec | .cli
  | .sei | .cld | .sed | .clv | .tay | .txa | .tya | .txs | .iny | .dey | .inc _ | .dec _ | .cmp _ | .cpx _ | .cpy _
  | .lda _ | .ldy _ | .sta _ | .stx _ | .sty _ | .pha | .php | .pla | .plp | .nop | .undoc _ => false

/-- The instructions that write Y (R33). -/
def writesY : Instr → Bool
  | .ldy _ | .tay | .iny | .dey => true
  | .adc _ | .sbc _ | .and _ | .ora _ | .eor _ | .bit _ | .asl _ | .lsr _ | .rol _ | .ror _ | .bcc _ | .bcs _
  | .beq _ | .bne _ | .bmi _ | .bpl _ | .bvc _ | .bvs _ | .jmp _ | .jsr _ | .rts | .brk | .rti | .clc | .sec | .cli
  | .sei | .cld | .sed | .clv | .tax | .txa | .tya | .tsx | .txs | .inx | .dex | .inc _ | .dec _ | .cmp _ | .cpx _
  | .cpy _ | .lda _ | .ldx _ | .sta _ | .stx _ | .sty _ | .pha | .php | .pla | .plp | .nop | .undoc _ => false

/-- The instructions that write SP (R34). -/
def writesSp : Instr → Bool
  | .txs | .pha | .php | .pla | .plp | .jsr _ | .rts | .rti | .brk => true
  | .adc _ | .sbc _ | .and _ | .ora _ | .eor _ | .bit _ | .asl _ | .lsr _ | .rol _ | .ror _ | .bcc _ | .bcs _
  | .beq _ | .bne _ | .bmi _ | .bpl _ | .bvc _ | .bvs _ | .jmp _ | .clc | .sec | .cli | .sei | .cld | .sed | .clv
  | .tax | .tay | .txa | .tya | .tsx | .inx | .iny | .dex | .dey | .inc _ | .dec _ | .cmp _ | .cpx _ | .cpy _
  | .lda _ | .ldx _ | .ldy _ | .sta _ | .stx _ | .sty _ | .nop | .undoc _ => false

/-- The instructions that may leave PC elsewhere than after themselves (R35). -/
def writesPc : Instr → Bool
  | .bcc _ | .bcs _ | .beq _ | .bne _ | .bmi _ | .bpl _ | .bvc _ | .bvs _ | .jmp _ | .jsr _ | .rts | .rti | .brk => true
  | .adc _ | .sbc _ | .and _ | .ora _ | .eor _ | .bit _ | .asl _ | .lsr _ | .rol _ | .ror _ | .clc | .sec | .cli
  | .sei | .cld | .sed | .clv | .tax | .tay | .txa | .tya | .tsx | .txs | .inx | .iny | .dex | .dey | .inc _
  | .dec _ | .cmp _ | .cpx _ | .cpy _ | .lda _ | .ldx _ | .ldy _ | .sta _ | .stx _ | .sty _ | .pha | .php | .pla
  | .plp | .nop | .undoc _ => false

/-- PLP and RTI, which write all seven flags. -/
def restoresFlags : Instr → Bool
  | .plp | .rti => true
  | .adc _ | .sbc _ | .and _ | .ora _ | .eor _ | .bit _ | .asl _ | .lsr _ | .rol _ | .ror _ | .bcc _ | .bcs _
  | .beq _ | .bne _ | .bmi _ | .bpl _ | .bvc _ | .bvs _ | .jmp _ | .jsr _ | .rts | .brk | .clc | .sec | .cli | .sei
  | .cld | .sed | .clv | .tax | .tay | .txa | .tya | .tsx | .txs | .inx | .iny | .dex | .dey | .inc _ | .dec _
  | .cmp _ | .cpx _ | .cpy _ | .lda _ | .ldx _ | .ldy _ | .sta _ | .stx _ | .sty _ | .pha | .php | .pla | .nop
  | .undoc _ => false

/-- The instructions that write C (R37). -/
def writesC (i : Instr) : Bool :=
  restoresFlags i || match i with
  | .adc _ | .sbc _ | .cmp _ | .cpx _ | .cpy _ | .asl _ | .lsr _ | .rol _ | .ror _ | .clc | .sec => true
  | .and _ | .ora _ | .eor _ | .bit _ | .bcc _ | .bcs _ | .beq _ | .bne _ | .bmi _ | .bpl _ | .bvc _ | .bvs _
  | .jmp _ | .jsr _ | .rts | .brk | .rti | .cli | .sei | .cld | .sed | .clv | .tax | .tay | .txa | .tya | .tsx
  | .txs | .inx | .iny | .dex | .dey | .inc _ | .dec _ | .lda _ | .ldx _ | .ldy _ | .sta _ | .stx _ | .sty _ | .pha
  | .php | .pla | .plp | .nop | .undoc _ => false

/-- The instructions that write Z and N (R38, R39). -/
def writesZN (i : Instr) : Bool :=
  restoresFlags i || match i with
  | .lda _ | .ldx _ | .ldy _ | .tax | .tay | .txa | .tya | .tsx | .pla | .adc _ | .sbc _ | .and _ | .ora _ | .eor _
  | .asl _ | .lsr _ | .rol _ | .ror _ | .inc _ | .dec _ | .inx | .iny | .dex | .dey | .cmp _ | .cpx _ | .cpy _
  | .bit _ => true
  | .bcc _ | .bcs _ | .beq _ | .bne _ | .bmi _ | .bpl _ | .bvc _ | .bvs _ | .jmp _ | .jsr _ | .rts | .brk | .rti
  | .clc | .sec | .cli | .sei | .cld | .sed | .clv | .txs | .sta _ | .stx _ | .sty _ | .pha | .php | .plp | .nop
  | .undoc _ => false

/-- The instructions that write I (R44). -/
def writesI (i : Instr) : Bool :=
  restoresFlags i || match i with
  | .sei | .cli | .brk => true
  | .adc _ | .sbc _ | .and _ | .ora _ | .eor _ | .bit _ | .asl _ | .lsr _ | .rol _ | .ror _ | .bcc _ | .bcs _
  | .beq _ | .bne _ | .bmi _ | .bpl _ | .bvc _ | .bvs _ | .jmp _ | .jsr _ | .rts | .rti | .clc | .sec | .cld | .sed
  | .clv | .tax | .tay | .txa | .tya | .tsx | .txs | .inx | .iny | .dex | .dey | .inc _ | .dec _ | .cmp _ | .cpx _
  | .cpy _ | .lda _ | .ldx _ | .ldy _ | .sta _ | .stx _ | .sty _ | .pha | .php | .pla | .plp | .nop
  | .undoc _ => false

/-- The instructions that write D (R45). -/
def writesD (i : Instr) : Bool :=
  restoresFlags i || match i with
  | .sed | .cld => true
  | .adc _ | .sbc _ | .and _ | .ora _ | .eor _ | .bit _ | .asl _ | .lsr _ | .rol _ | .ror _ | .bcc _ | .bcs _
  | .beq _ | .bne _ | .bmi _ | .bpl _ | .bvc _ | .bvs _ | .jmp _ | .jsr _ | .rts | .brk | .rti | .clc | .sec | .cli
  | .sei | .clv | .tax | .tay | .txa | .tya | .tsx | .txs | .inx | .iny | .dex | .dey | .inc _ | .dec _ | .cmp _
  | .cpx _ | .cpy _ | .lda _ | .ldx _ | .ldy _ | .sta _ | .stx _ | .sty _ | .pha | .php | .pla | .plp | .nop
  | .undoc _ => false

/-- The instructions that write V (R46). -/
def writesV (i : Instr) : Bool :=
  restoresFlags i || match i with
  | .adc _ | .sbc _ | .bit _ | .clv => true
  | .and _ | .ora _ | .eor _ | .asl _ | .lsr _ | .rol _ | .ror _ | .bcc _ | .bcs _ | .beq _ | .bne _ | .bmi _
  | .bpl _ | .bvc _ | .bvs _ | .jmp _ | .jsr _ | .rts | .brk | .rti | .clc | .sec | .cli | .sei | .cld | .sed | .tax
  | .tay | .txa | .tya | .tsx | .txs | .inx | .iny | .dex | .dey | .inc _ | .dec _ | .cmp _ | .cpx _ | .cpy _
  | .lda _ | .ldx _ | .ldy _ | .sta _ | .stx _ | .sty _ | .pha | .php | .pla | .plp | .nop | .undoc _ => false

/-- The base cycles of the read class by mode (R630); 0 for a mode the class does not have. -/
def readCycles : Mode → Nat
  | .immediate => 2
  | .zeroPage => 3
  | .zeroPageX | .zeroPageY | .absolute | .absoluteX | .absoluteY => 4
  | .indexedIndirect => 6
  | .indirectIndexed => 5
  | _ => 0

/-- The base cycles of the write class by mode (R630). -/
def storeCycles : Mode → Nat
  | .zeroPage => 3
  | .zeroPageX | .zeroPageY | .absolute => 4
  | .absoluteX | .absoluteY => 5
  | .indexedIndirect | .indirectIndexed => 6
  | _ => 0

/-- The base cycles of the read-modify-write class by mode (R630). -/
def modifyCycles : Mode → Nat
  | .accumulator => 2
  | .zeroPage => 5
  | .zeroPageX | .absolute => 6
  | .absoluteX => 7
  | _ => 0

/-- The base cycles of every instruction by class and mode (R630). -/
def cyclesByClass : Instr → Nat
  | .adc src | .sbc src | .and src | .ora src | .eor src | .cmp src | .cpx src | .cpy src | .lda src | .ldx src
  | .ldy src => readCycles src.mode
  | .bit m => readCycles m.mode
  | .sta m | .stx m | .sty m => storeCycles m.mode
  | .asl p | .lsr p | .rol p | .ror p => modifyCycles p.mode
  | .inc m | .dec m => modifyCycles m.mode
  | .bcc _ | .bcs _ | .beq _ | .bne _ | .bmi _ | .bpl _ | .bvc _ | .bvs _ => 2
  | .jmp (.absolute _) => 3
  | .jmp (.indirect _) => 5
  | .pha | .php => 3
  | .pla | .plp => 4
  | .jsr _ | .rts | .rti => 6
  | .brk => 7
  | .clc | .sec | .cli | .sei | .cld | .sed | .clv | .tax | .tay | .txa | .tya | .tsx | .txs | .inx | .iny | .dex | .dey
  | .nop | .undoc _ => 2

/-- The operation's row of R161: an operand of a mode of the row is encoded as the row's opcode and the operand's bytes, and one
of no other mode is an instruction. -/
def encodedAs {α : Type} (mode : α → Mode) (bytes : α → List Byte) (i : α → Instr) (row : List (Mode × Byte)) : Prop :=
  ∀ x : α, (∀ p ∈ row, mode x = p.1 → encode (i x) = p.2 :: bytes x) ∧
    ((∀ p ∈ row, mode x ≠ p.1) → (i x).wellFormed = false)

/-- The row of a read-class operation. -/
def sourceRow (i : Source → Instr) (row : List (Mode × Byte)) : Prop := encodedAs Source.mode Source.bytes i row

/-- The row of an operation on memory. -/
def addressRow (i : Address → Instr) (row : List (Mode × Byte)) : Prop := encodedAs Address.mode Address.bytes i row

/-- The row of a shift or rotate. -/
def placeRow (i : Place → Instr) (row : List (Mode × Byte)) : Prop := encodedAs Place.mode Place.bytes i row

/-- The length of an instruction by its mode (R131). -/
def lengthByMode (i : Instr) : Nat :=
  if i = .brk then 2
  else match i.mode with
  | .implied | .accumulator => 1
  | .immediate | .zeroPage | .zeroPageX | .zeroPageY | .relative | .indexedIndirect | .indirectIndexed => 2
  | .absolute | .absoluteX | .absoluteY | .indirect => 3

end Sys2Proof.Claims

open Sys2Proof Sys2Proof.Machine Sys2Proof.Claims

/-! ### Encoding -/

/-- Words written out from R160 decode to the instruction they stand for. -/
def Obligations.WordsDecodeAsWritten : Prop :=
  decode [0x69, 0x02] = .ok (.adc (.immediate 0x02), []) ∧
  decode [0x8D, 0x10, 0x00] = .ok (.sta (.absolute 0x0010), []) ∧
  decode [0xB1, 0xFF, 0xEA] = .ok (.lda (.memory (.indirectIndexed 0xFF)), [0xEA]) ∧
  decode [0x1E, 0xFF, 0x02] = .ok (.asl (.memory (.absoluteX 0x02FF)), []) ∧
  decode [0x6C, 0xFF, 0x30] = .ok (.jmp (.indirect 0x30FF), []) ∧
  decode [0xF0, 0x13] = .ok (.beq 0x13, []) ∧
  decode [0x00, 0xAA, 0x40] = .ok (.brk, [0x40]) ∧
  decode [0x96, 0xFF] = .ok (.stx (.zeroPageY 0xFF), []) ∧
  decode [0x02, 0x69] = .ok (.undoc 0x02, [0x69])

/-- Decoding an encoded well-formed instruction gives it back, whatever bytes follow: no bit of an operand is dropped. -/
def Obligations.DecodeEncodeRoundTrip : Prop :=
  ∀ (i : Instr) (rest : List Byte), i.wellFormed = true → decode (encode i ++ rest) = .ok (i, rest)

/-- What decodes is a well-formed instruction, and encoding it gives the bytes back; BRK's pad byte alone is free. -/
def Obligations.EncodeDecodeRoundTrip : Prop :=
  ∀ (bytes : List Byte) (i : Instr) (rest : List Byte), decode bytes = .ok (i, rest) →
    i.wellFormed = true ∧ (i ≠ .brk → encode i ++ rest = bytes) ∧ (i = .brk → ∃ pad, bytes = 0x00 :: pad :: rest)

/-- No opcode byte is refused and every operand byte is legal (R163): any three bytes decode, and the opcode byte alone
fixes the length (R131). -/
def Obligations.EveryOpcodeByteDecodes : Prop :=
  ∀ (opcode op1 op2 : Byte) (rest : List Byte), ∃ i : Instr,
    decode (opcode :: op1 :: op2 :: rest) = .ok (i, (op1 :: op2 :: rest).drop (lengthByMode i - 1)) ∧
    i.wellFormed = true ∧ (∀ b1 b2, (Instr.ofBytes opcode b1 b2).length = lengthByMode i)

/-- There are 105 undocumented bytes, each decodes to UNDOC, one byte long with base 2, and no other byte does (R162). -/
def Obligations.UndocumentedBytesDecode : Prop :=
  undocumentedBytes.length = 105 ∧ undocumentedBytes.Nodup ∧
  ∀ (b : Byte) (rest : List Byte),
    (b ∈ undocumentedBytes → decode (b :: rest) = .ok (.undoc b, rest) ∧ (Instr.undoc b).baseCycles = 2) ∧
    (∀ c r, decode (b :: rest) = .ok (.undoc c, r) → c = b ∧ b ∈ undocumentedBytes)

/-- The base cycle count of every instruction of the opcode map is the one R630 gives its class and mode. -/
def Obligations.BaseCyclesByClassAndMode : Prop :=
  ∀ i : Instr, i.wellFormed = true → i.baseCycles = cyclesByClass i

/-! ### The step -/

/-- When the bytes at PC decode to an instruction, a step with no fault and no interrupt to take is exec of that
instruction with PC past it (R170, R35). -/
def Obligations.StepRunsDecodedInstruction : Prop :=
  ∀ (s : State) (b0 b1 b2 : Byte) (i : Instr) (rest : List Byte), s.quiet = true →
    decode [b0, b1, b2] = .ok (i, rest) → codeByte s s.pc b0 →
    (1 ≤ i.operandBytes → codeByte s (s.pc + 1) b1) → (2 ≤ i.operandBytes → codeByte s (s.pc + 2) b2) →
    step s = exec i { s with pc := s.pc + BitVec.ofNat 16 i.length }

/-- The step tests the NMI latch, then the IRQ latch with I = 0, and else fetches through the bus: the opcode byte, then
the operand bytes, in order, and leaves PC past the instruction (R170, R503, R87). That the byte of an immediate operand is read
here and not by Load, to which R142 and R153 give it, is the model's reading (log entry 10, DEDUCED). The reads are those that
answer; those that fault are in UnmappedFaultIsFatal. -/
def Obligations.StepOrderAndFetch : Prop :=
  (∀ s : State, s.running = true → s.nmiPending = true → step s = s.nmiEntry) ∧
  (∀ s : State, s.running = true → s.nmiPending = false → s.irqPending = true → s.flags.i = false →
    step s = s.irqEntry) ∧
  (∀ s : State, s.quiet = true → step s = s.fetch.andThen exec) ∧
  (∀ (s s1 : State) (opcode : Byte), s.memRead s.pc = .done opcode s1 →
    let next (i : Instr) : Word := s.pc + BitVec.ofNat 16 i.length
    let count := (Instr.ofBytes opcode 0 0).operandBytes
    (count = 0 → s.fetch = .done (Instr.ofBytes opcode 0 0) { s1 with pc := next (Instr.ofBytes opcode 0 0) }) ∧
    (∀ op1 s2, s1.memRead (s.pc + 1) = .done op1 s2 →
      (count = 1 → s.fetch = .done (Instr.ofBytes opcode op1 0) { s2 with pc := next (Instr.ofBytes opcode op1 0) }) ∧
      (∀ op2 s3, s2.memRead (s.pc + 2) = .done op2 s3 → count = 2 →
        s.fetch = .done (Instr.ofBytes opcode op1 op2) { s3 with pc := next (Instr.ofBytes opcode op1 op2) })))

/-- The unmapped-address fault: a read the mapper has no handler for marks its address, a step whose fetch of the opcode or of
an operand byte meets it ends there, no later step changes anything, and of the host's operations PowerUp alone clears the mark
(R501). An instruction with no operand byte to read, BRK among them, runs although the byte after it is unmapped. An immediate
operand counts as an operand byte of the fetch (log entry 10), and the faulted step answers a next state (log entry 11). -/
def Obligations.UnmappedFaultIsFatal : Prop :=
  (∀ (s : State) (a : Word), 0x4020 ≤ a.toNat → s.mapper.answer a = none → s.fault = none →
    ∃ t, s.memRead a = .faulted t ∧ t.fault = some a) ∧
  (∀ s : State, s.quiet = true → 0x4020 ≤ s.pc.toNat → s.mapper.answer s.pc = none →
    ∃ t, step s = .next t ∧ t.fault = some s.pc ∧ step t = .next t) ∧
  (∀ (s s1 : State) (opcode : Byte), s.quiet = true → s.memRead s.pc = .done opcode s1 →
    let bare := Instr.ofBytes opcode 0 0
    (∀ t, s1.memRead (s.pc + 1) = .faulted t →
      (bare.operandBytes = 0 → step s = exec bare { s1 with pc := s.pc + BitVec.ofNat 16 bare.length }) ∧
      (1 ≤ bare.operandBytes → step s = .next t ∧ t.fault = some (s.pc + 1) ∧ step t = .next t)) ∧
    (∀ op1 s2 t, s1.memRead (s.pc + 1) = .done op1 s2 → s2.memRead (s.pc + 2) = .faulted t → bare.operandBytes = 2 →
      step s = .next t ∧ t.fault = some (s.pc + 2) ∧ step t = .next t)) ∧
  (∀ (s : State) (a : Word), s.fault = some a → step s = .next s ∧ (∀ c, (s.hostReset c).fault = some a) ∧
    s.requestNmi.fault = some a ∧ s.requestIrq.fault = some a ∧ s.clearRam.fault = some a ∧
    (∀ w, (s.writeSnapshot w).fault = some a) ∧ (∀ b w, (s.writeWord b w).fault = some a) ∧
    (∀ p, (s.powerUp p).fault = none))

/-- NmiEntry (R505): the frame is pushed with bit 4 of the status 0, I is set, PC is the NMI vector, the latch is cleared,
7 cycles are added, and nothing else changes but what reading the vector asks of the mapper. If that read faults, the step ends
in the state it leaves. -/
def Obligations.NmiEntryEffect : Prop :=
  ∀ s : State, s.running = true → s.nmiPending = true →
    (∀ v s1, (framed s (s.flags.getSr &&& 0xEF)).readWord 0xFFFA = .done v s1 →
      step s = .next { s1 with pc := v, nmiPending := false, cycles := s1.cycles + 7 }) ∧
    (∀ r, s.mapper = .nrom r → ∃ lo hi, r.read 0xFFFA = some lo ∧ r.read 0xFFFB = some hi ∧
      step s = .next { framed s (s.flags.getSr &&& 0xEF) with
        pc := wordOf hi lo, nmiPending := false, cycles := s.cycles + 7 }) ∧
    (∀ t, (framed s (s.flags.getSr &&& 0xEF)).readWord 0xFFFA = .faulted t → step s = .next t)

/-- IrqEntry (R506): the same with the IRQ/BRK vector and the IRQ latch, taken only when it is pending and I = 0: with no IRQ
pending, or with I = 1, the step fetches and runs an instruction instead. -/
def Obligations.IrqEntryEffect : Prop :=
  ∀ s : State, s.running = true → s.nmiPending = false →
    (s.irqPending = true → s.flags.i = false →
      (∀ v s1, (framed s (s.flags.getSr &&& 0xEF)).readWord 0xFFFE = .done v s1 →
        step s = .next { s1 with pc := v, irqPending := false, cycles := s1.cycles + 7 }) ∧
      (∀ r, s.mapper = .nrom r → ∃ lo hi, r.read 0xFFFE = some lo ∧ r.read 0xFFFF = some hi ∧
        step s = .next { framed s (s.flags.getSr &&& 0xEF) with
          pc := wordOf hi lo, irqPending := false, cycles := s.cycles + 7 }) ∧
      (∀ t, (framed s (s.flags.getSr &&& 0xEF)).readWord 0xFFFE = .faulted t → step s = .next t)) ∧
    ((s.irqPending = false ∨ s.flags.i = true) → step s = s.fetch.andThen exec)

/-- BRK (R313), with PC already past the pad byte: the frame is pushed with bit 4 of the status 1, I is set and the stored B
is not, PC is the IRQ/BRK vector, and the latches are not touched. If the vector read faults, the step ends in the state it leaves. -/
def Obligations.BrkEffect : Prop :=
  (∀ pad rest, decode (0x00 :: pad :: rest) = .ok (.brk, rest)) ∧
  ∀ s : State,
    (∀ v s1, (framed s (s.flags.getSr ||| 0x10)).readWord 0xFFFE = .done v s1 →
      exec .brk s = .next { s1 with pc := v, cycles := s1.cycles + 7 }) ∧
    (∀ r, s.mapper = .nrom r → ∃ lo hi, r.read 0xFFFE = some lo ∧ r.read 0xFFFF = some hi ∧
      exec .brk s = .next { framed s (s.flags.getSr ||| 0x10) with pc := wordOf hi lo, cycles := s.cycles + 7 }) ∧
    (∀ t, (framed s (s.flags.getSr ||| 0x10)).readWord 0xFFFE = .faulted t → exec .brk s = .next t)

/-- The stack frame of BRK, NMI and IRQ (R508): the return PC, high byte first, then the status with bit 5 = 1 and bit 4 = 1
for BRK and 0 for the interrupts; SP is 3 less. -/
def Obligations.ExceptionFrameOnStack : Prop :=
  let frameOf (s t : State) (bit4 : Bool) : Prop :=
    t.sp = s.sp - 3 ∧ t.ramRead (stackAddress s.sp) = highByte s.pc ∧
    t.ramRead (stackAddress (s.sp - 1)) = lowByte s.pc ∧
    (let status := t.ramRead (stackAddress (s.sp - 2))
     status.getLsbD 4 = bit4 ∧ status.getLsbD 5 = true ∧ Flags.ofSr status = { s.flags with b := bit4 })
  (∀ s t : State, s.running = true → s.nmiPending = true → step s = .next t → t.running = true → frameOf s t false) ∧
  (∀ s t : State, s.running = true → s.nmiPending = false → s.irqPending = true → s.flags.i = false →
    step s = .next t → t.running = true → frameOf s t false) ∧
  (∀ s t : State, s.running = true → exec .brk s = .next t → t.running = true → frameOf s t true)

/-- RTI (R314): all seven flags from the first pulled byte, then PC low and high, with no 1 added. -/
def Obligations.RtiEffect : Prop :=
  encode .rti = [0x40] ∧
  ∀ s : State,
    let status := s.ramRead (stackAddress (s.sp + 1))
    exec .rti s = .next { s with
      flags := ⟨status.getLsbD 0, status.getLsbD 1, status.getLsbD 2, status.getLsbD 3, status.getLsbD 4,
        status.getLsbD 6, status.getLsbD 7⟩
      pc := wordOf (s.ramRead (stackAddress (s.sp + 3))) (s.ramRead (stackAddress (s.sp + 2)))
      sp := s.sp + 3
      cycles := s.cycles + 6 }

/-- RTI at the start of a handler resumes the interrupted program (R509): PC, SP and every flag are those before the entry,
but the stored B, which takes the pushed bit 4. -/
def Obligations.RtiResumesInterruptedProgram : Prop :=
  let resumes (s t : State) (bit4 : Bool) : Prop :=
    ∃ u, exec .rti t = .next u ∧ u.pc = s.pc ∧ u.sp = s.sp ∧ u.flags = { s.flags with b := bit4 } ∧
      u.a = s.a ∧ u.x = s.x ∧ u.y = s.y ∧ u.fault = none
  (∀ s t : State, s.running = true → s.nmiPending = true → step s = .next t → t.running = true → resumes s t false) ∧
  (∀ s t : State, s.running = true → s.nmiPending = false → s.irqPending = true → s.flags.i = false →
    step s = .next t → t.running = true → resumes s t false) ∧
  (∀ s t : State, s.running = true → exec .brk s = .next t → t.running = true → resumes s t true)

/-- Every instruction and every step answers a next state: none waits, traps to a stop or is refused (R163, R500, R538). The one
end the machine has, the unmapped-address fault (R501, R538), is by the model's own choice a next state too, the faulted one
that no later step leaves (log entry 11, DESIGN CHOICE); this statement does not say that the machine cannot reach it. -/
def Obligations.EveryStepAnswersNext : Prop :=
  (∀ (i : Instr) (s : State), ∃ t, exec i s = .next t) ∧ (∀ s : State, ∃ t, step s = .next t)

/-- Every step keeps every memory in canonical form: RAM within its 2048 cells, the cartridge's image and PRG-RAM within
their windows (R5, R83, R540). -/
def Obligations.StepKeepsMemoriesCanonical : Prop :=
  ∀ s t : State, s.wf = true → step s = .next t → t.wf = true

/-- What the state after reset holds of what the spec gives (R55): A, X and Y zero, I set, the latches clear, no cycles, no
fault, RAM unwritten; and that its memories are canonical. The model's own choices (SP, the other flags, the cartridge and
so PC: log entries 6 and 7) are not stated. -/
def Obligations.ResetStateHoldsSpecValues : Prop :=
  State.reset.a = 0 ∧ State.reset.x = 0 ∧ State.reset.y = 0 ∧ State.reset.flags.i = true ∧
  State.reset.nmiPending = false ∧ State.reset.irqPending = false ∧ State.reset.cycles = 0 ∧
  State.reset.fault = none ∧ State.reset.ram = [] ∧ State.reset.wf = true

/-- PowerUp (R601): A, X and Y zero, PC, SP and the flags its parameters, RAM a fresh draw, latches, cycles and fault clear,
and one write of 0x00 for each address of the I/O clear set, all in 0x2000 to 0x401F (R6), ascending; the cartridge stays. -/
def Obligations.PowerUpEffect : Prop :=
  ∀ (s : State) (p : PowerUpInputs),
    s.powerUp p = { s with
      a := 0, x := 0, y := 0, pc := p.pc, sp := p.sp, flags := p.flags, ram := [], ramDraw := s.draws,
      draws := s.draws + 1, nmiPending := false, irqPending := false, cycles := 0, fault := none,
      ioLog := (p.ioClear.addresses.reverse.map fun a => IoEvent.write a 0x00) ++ s.ioLog } ∧
    (∀ a ∈ p.ioClear.addresses, 0x2000 ≤ a.toNat ∧ a.toNat ≤ 0x401F) ∧
    (p.ioClear.addresses.Pairwise fun a b => a.toNat < b.toNat) ∧
    (∀ a : Word, a.toNat < 0x2000 → (s.powerUp p).ramRead a = Config.powerUpRam s.draws (a.toNat % 0x800))

/-- Reset (R602): SP is 3 less, I is set, one I/O register in 0x2000 to 0x401F (R6) is written 0x00, PC is the RESET vector, and nothing else changes
but what reading the vector asks of the mapper; no byte of RAM is written. If the vector read faults, the mark is set and the
rest is the same (that PC is then open is the model's reading, log entry 5). -/
def Obligations.ResetEffect : Prop :=
  ∀ (s : State) (clear : IoAddress),
    let s1 : State := { s with
      sp := s.sp - 3, flags := { s.flags with i := true }, ioLog := .write clear.value 0x00 :: s.ioLog }
    (0x2000 ≤ clear.value.toNat ∧ clear.value.toNat ≤ 0x401F) ∧
    (∀ v s2, s1.readWord 0xFFFC = .done v s2 → s.hostReset clear = { s2 with pc := v } ∧ SameCore s1 s2) ∧
    (∀ r, s.mapper = .nrom r → ∃ lo hi, r.read 0xFFFC = some lo ∧ r.read 0xFFFD = some hi ∧
      s.hostReset clear = { s1 with pc := wordOf hi lo }) ∧
    (∀ t, s1.readWord 0xFFFC = .faulted t → ∃ pc, t.fault.isSome = true ∧
      s.hostReset clear = { s1 with pc := pc, fault := t.fault, mapper := t.mapper, ioLog := t.ioLog, draws := t.draws })

/-- The host's other operations (R620): SetNMI and SetIRQ set their latch and nothing else, ClearRAM makes every cell 0x00, a
snapshot write sets what it names and a snapshot read then returns it. The word write (R90) stores the low byte at a and then the
high byte at a + 1 modulo 65536: the I/O log has the low byte first, at 0xFFFF the high byte goes to RAM cell 0, and a word
written to RAM is read back (R88). -/
def Obligations.HostOperations : Prop :=
  ∀ s : State,
    s.requestNmi = { s with nmiPending := true } ∧ s.requestIrq = { s with irqPending := true } ∧
    (s.clearRam = { s with ram := s.clearRam.ram } ∧ ∀ a, s.clearRam.ramRead a = 0x00) ∧
    (∀ w : SnapshotWrite,
      s.writeSnapshot w = { s with
        a := w.a, x := w.x, y := w.y, sp := w.sp, pc := w.pc, flags := Flags.ofSr w.status,
        ram := (s.writeSnapshot w).ram } ∧
      (s.writeSnapshot w).snapshot = { s.snapshot with
        a := w.a, x := w.x, y := w.y, sp := w.sp, pc := w.pc, status := w.status ||| 0x20, ram := w.ram.toList }) ∧
    (∀ a w : Word, s.writeWord a w = (s.memWrite a (lowByte w)).memWrite (a + 1) (highByte w)) ∧
    (∀ a w : Word, 0x2000 ≤ a.toNat → a.toNat + 1 < 0x4020 → s.writeWord a w =
      { s with ioLog := .write (a + 1) (highByte w) :: .write a (lowByte w) :: s.ioLog }) ∧
    (∀ w : Word, s.writeWord 0xFFFF w =
      { s with mapper := s.mapper.afterWrite 0xFFFF (lowByte w), ram := s.ram.write none 0 (highByte w) }) ∧
    (∀ a w : Word, a.toNat + 1 < 0x2000 → (s.writeWord a w).readWord a = .done w (s.writeWord a w))

/-- The cycle counter never decreases, and a step that runs an instruction or an entry without a fault adds 2 to 7
(R621, R171, R161). -/
def Obligations.CyclesOfAStep : Prop :=
  ∀ s t : State, step s = .next t →
    s.cycles ≤ t.cycles ∧
    (s.running = true → t.running = true → s.cycles + 2 ≤ t.cycles ∧ t.cycles ≤ s.cycles + 7)

/-- The latches are cleared by their entries alone and set by no step (R48, R49): after a step without a fault no NMI is
pending, and an IRQ is pending just when it was and its entry was not taken. -/
def Obligations.LatchesClearedOnlyByEntries : Prop :=
  ∀ s t : State, s.running = true → step s = .next t → t.running = true →
    t.nmiPending = false ∧ t.irqPending = (s.irqPending && (s.nmiPending || s.flags.i))

/-- A flag is written by no instruction but those R37 to R39 and R44 to R47 name. -/
def Obligations.FlagsWrittenOnlyByTheirInstructions : Prop :=
  ∀ (i : Instr) (s t : State), s.running = true → exec i s = .next t → t.running = true →
    (writesC i = false → t.flags.c = s.flags.c) ∧ (writesZN i = false → t.flags.z = s.flags.z) ∧
    (writesZN i = false → t.flags.n = s.flags.n) ∧ (writesI i = false → t.flags.i = s.flags.i) ∧
    (writesD i = false → t.flags.d = s.flags.d) ∧ (writesV i = false → t.flags.v = s.flags.v) ∧
    (restoresFlags i = false → t.flags.b = s.flags.b)

/-- A register is written by no instruction but those R31 to R35 name; no instruction writes a latch. -/
def Obligations.RegistersWrittenOnlyByTheirInstructions : Prop :=
  ∀ (i : Instr) (s t : State), s.running = true → exec i s = .next t → t.running = true →
    (writesA i = false → t.a = s.a) ∧ (writesX i = false → t.x = s.x) ∧ (writesY i = false → t.y = s.y) ∧
    (writesSp i = false → t.sp = s.sp) ∧ (writesPc i = false → t.pc = s.pc) ∧
    t.nmiPending = s.nmiPending ∧ t.irqPending = s.irqPending ∧ t.ramDraw = s.ramDraw

/-- The D flag never alters ADC or SBC (R202): run from the same state with D replaced, each gives the same state with D
replaced. The two runs are compared in the model, where both read the same draws (log entry 3) and a mapper that served the same
accesses answers both alike (log entry 4). -/
def Obligations.DecimalFlagHasNoEffect : Prop :=
  let setD (d : Bool) (s : State) : State := { s with flags := { s.flags with d := d } }
  ∀ (src : Source) (s t : State) (d : Bool), s.running = true → t.running = true →
    (exec (.adc src) s = .next t → exec (.adc src) (setD d s) = .next (setD d t)) ∧
    (exec (.sbc src) s = .next t → exec (.sbc src) (setD d s) = .next (setD d t))

/-- An instruction that neither stores nor pushes leaves every byte of memory, whatever its operand. -/
def Obligations.OtherInstructionsKeepMemory : Prop :=
  ∀ (i : Instr) (s t : State), storedOf i = none → pushedBytes i = 0 → s.running = true →
    exec i s = .next t → t.running = true → ∀ a, SameByte s t a

/-- A store or a read-modify-write leaves every byte of memory but the cell at the effective address of its operand. -/
def Obligations.StoresKeepOtherBytes : Prop :=
  ∀ (i : Instr) (m : Address) (s t : State) (r : Resolved), storedOf i = some m → s.resolve m = .done r s →
    s.running = true → exec i s = .next t → t.running = true → ∀ a, ¬ sameCell a r.ea → SameByte s t a

/-- PHA, PHP, JSR and BRK leave every byte of memory but the 1, 1, 2 and 3 stack bytes they push, and those lie in page 1,
whatever SP is (R97). -/
def Obligations.PushesKeepOtherBytes : Prop :=
  ∀ (i : Instr) (s t : State), 0 < pushedBytes i → s.running = true → exec i s = .next t → t.running = true →
    (∀ a, (∀ k, k < pushedBytes i → ¬ sameCell a (stackAddress (s.sp - BitVec.ofNat 8 k))) → SameByte s t a) ∧
    (∀ k, k < pushedBytes i → highByte (stackAddress (s.sp - BitVec.ofNat 8 k)) = 0x01)

/-! ### Memory -/

/-- RAM is 2048 bytes mirrored four times (R83): a byte written below 0x2000 is read at every address below 0x2000 of the
same cell, with no side effect, and no other cell changes. -/
def Obligations.RamIsMirrored : Prop :=
  ∀ (s : State) (a b : Word) (v : Byte), a.toNat < 0x2000 → b.toNat < 0x2000 →
    (a.toNat % 0x800 = b.toNat % 0x800 → (s.memWrite a v).memRead b = .done v (s.memWrite a v)) ∧
    (a.toNat % 0x800 ≠ b.toNat % 0x800 → ∃ w, s.memRead b = .done w s ∧
      (s.memWrite a v).memRead b = .done w (s.memWrite a v))

/-- MemRead by address (R81): below 0x2000 the RAM cell modulo 0x800; from 0x4020 the mapper's answer, or the unmapped-address
fault where it has none; between them a byte of the I/O port, recorded. -/
def Obligations.ByteReadByAddress : Prop :=
  ∀ (s : State) (a : Word),
    (a.toNat < 0x2000 → s.memRead a =
      .done ((s.ram.lookup (a.toNat % 0x800)).getD (Config.powerUpRam s.ramDraw (a.toNat % 0x800))) s) ∧
    (0x4020 ≤ a.toNat → ∀ v, s.mapper.answer a = some v →
      s.memRead a = .done v { s with mapper := s.mapper.afterRead a }) ∧
    (0x4020 ≤ a.toNat → s.mapper.answer a = none → s.fault = none →
      ∃ t, s.memRead a = .faulted t ∧ t.fault = some a) ∧
    (0x2000 ≤ a.toNat → a.toNat < 0x4020 → ∃ v, s.memRead a =
      .done v { s with ioLog := .read a v :: s.ioLog, draws := s.draws + 1 })

/-- MemWrite by address (R82): below 0x2000 the RAM cell modulo 0x800; from 0x4020 the mapper; between them the I/O port, recorded.
It never faults. -/
def Obligations.ByteWriteByAddress : Prop :=
  ∀ (s : State) (a : Word) (v : Byte),
    (a.toNat < 0x2000 → s.memWrite a v = { s with ram := s.ram.write none (a.toNat % 0x800) v }) ∧
    (0x4020 ≤ a.toNat → s.memWrite a v = { s with mapper := s.mapper.afterWrite a v }) ∧
    (0x2000 ≤ a.toNat → a.toNat < 0x4020 → s.memWrite a v = { s with ioLog := .write a v :: s.ioLog })

/-- Two reads of one I/O address are two independent draws, each recorded with its value in the order they occur
(R85, R94). -/
def Obligations.IoReadsAreSeparateDraws : Prop :=
  ∀ (s : State) (a : Word), 0x2000 ≤ a.toNat → a.toNat < 0x4020 →
    ∃ s1 s2, s.memRead a = .done (Config.ioRead s.draws a) s1 ∧
      s1.memRead a = .done (Config.ioRead (s.draws + 1) a) s2 ∧
      s2 = { s with
        ioLog := .read a (Config.ioRead (s.draws + 1) a) :: .read a (Config.ioRead s.draws a) :: s.ioLog
        draws := s.draws + 2 }

/-- MemRead(a, 2) reads the low byte and then the high byte at a + 1 modulo 65536 (R88); ReadWordPW takes the high byte from
the same page (R89). -/
def Obligations.WordReadsAreLittleEndian : Prop :=
  ∀ (s s1 s2 : State) (a : Word) (lo hi : Byte), s.memRead a = .done lo s1 →
    (s1.memRead (a + 1) = .done hi s2 → s.readWord a = .done (wordOf hi lo) s2) ∧
    (s1.memRead (wordOf (highByte a) (lowByte a + 1)) = .done hi s2 → s.readWordPW a = .done (wordOf hi lo) s2)

/-- Push and Pull (R95, R96): a push stores at 0x0100 | SP and then decrements SP; a pull increments SP and then reads
there; both wrap modulo 256, never leave page 1 and never fault (R97). -/
def Obligations.PushAndPull : Prop :=
  ∀ (s : State) (v : Byte),
    s.push v = { s with ram := s.ram.write none (0x100 + s.sp.toNat) v, sp := s.sp - 1 } ∧
    (∃ w, s.pull = .done w { s with sp := s.sp + 1 } ∧ s.memRead (0x0100 ||| zext16 (s.sp + 1)) = .done w s) ∧
    (s.push v).pull = .done v { s with ram := s.ram.write none (0x100 + s.sp.toNat) v }

/-- The NROM-style mapper (R540): from 0x8000 a read gives the PRG-ROM image's byte at (a - 0x8000) modulo its size, and no write
changes the image; from 0x6000 to 0x7FFF, if PRG-RAM is present, a read gives its byte at a - 0x6000, which is what was written
last; no handler elsewhere. That a byte the image or PRG-RAM does not list reads 0x00 is the model's choice (log entry 7). -/
def Obligations.NromMapperContract : Prop :=
  ∀ (r : Nrom) (a b : Word) (v : Byte),
    let prgBytes : Nat := match r.prgSize with
      | .kb16 => 16384
      | .kb32 => 32768
    (0x8000 ≤ a.toNat →
      (∀ w, r.prg.lookup ((a.toNat - 0x8000) % prgBytes) = some w → r.read a = some w) ∧
      (r.prg.lookup ((a.toNat - 0x8000) % prgBytes) = none → r.read a = some 0x00) ∧
      (r.write b v).read a = r.read a) ∧
    ((r.write b v).prg = r.prg ∧ (r.write b v).prgSize = r.prgSize ∧ (r.write b v).hasPrgRam = r.hasPrgRam) ∧
    (0x6000 ≤ a.toNat → a.toNat ≤ 0x7FFF → r.hasPrgRam = true →
      (∀ w, r.prgRam.lookup (a.toNat - 0x6000) = some w → r.read a = some w) ∧
      (r.prgRam.lookup (a.toNat - 0x6000) = none → r.read a = some 0x00)) ∧
    (r.prgSize = .kb16 → 0x8000 ≤ a.toNat → a.toNat < 0xC000 → r.read (a + 0x4000) = r.read a) ∧
    (0x6000 ≤ a.toNat → a.toNat ≤ 0x7FFF → r.hasPrgRam = true → (Mapper.nrom r).wf = true →
      (r.write a v).read a = some v ∧ (a ≠ b → (r.write b v).read a = r.read a)) ∧
    (0x4020 ≤ a.toNat → a.toNat < 0x8000 → (a.toNat < 0x6000 ∨ r.hasPrgRam = false) →
      r.read a = none ∧ r.write a v = r)

/-- Resolving and loading an operand change nothing of the state but what the ports were asked, and nothing at all where
the bytes are in memory (R87, R94). -/
def Obligations.LoadsChangeOnlyThePorts : Prop :=
  ∀ (src : Source) (s s1 : State) (l : Loaded), s.load src = .done l s1 →
    SameCore s s1 ∧
    (∀ m r, src = .memory m → s.resolve m = .done r s → (∃ v, codeByte s r.ea v) → s1 = s ∧ codeByte s r.ea l.value)

/-! ### Addressing -/

/-- The effective address and the page-cross indicator of every mode that forms one (R143 to R148, R150, R151), each with no
fault and no change of state. -/
def Obligations.EffectiveAddresses : Prop :=
  ∀ (s : State) (a : Byte) (w : Word),
    s.resolve (.zeroPage a) = .done ⟨wordOf 0 a, false⟩ s ∧
    s.resolve (.zeroPageX a) = .done ⟨wordOf 0 (a + s.x), false⟩ s ∧
    s.resolve (.zeroPageY a) = .done ⟨wordOf 0 (a + s.y), false⟩ s ∧
    s.resolve (.absolute w) = .done ⟨w, false⟩ s ∧
    s.resolve (.absoluteX w) =
      .done ⟨w + zext16 s.x, highByte w != highByte (w + zext16 s.x)⟩ s ∧
    s.resolve (.absoluteY w) =
      .done ⟨w + zext16 s.y, highByte w != highByte (w + zext16 s.y)⟩ s ∧
    s.resolve (.indexedIndirect a) =
      .done ⟨wordOf (s.ramRead (wordOf 0 (a + s.x + 1))) (s.ramRead (wordOf 0 (a + s.x))), false⟩ s ∧
    (let base := wordOf (s.ramRead (wordOf 0 (a + 1))) (s.ramRead (wordOf 0 a))
     s.resolve (.indirectIndexed a) = .done ⟨base + zext16 s.y, highByte base != highByte (base + zext16 s.y)⟩ s)

/-- Load (R153): the immediate byte, or one read at the effective address after the mode's own reads. That the immediate form
makes no access here, where R153 reads the byte at its effective address, is the model's reading: the fetch has read that byte
already (log entry 10, DEDUCED). -/
def Obligations.OperandLoad : Prop :=
  ∀ (s : State) (v : Byte) (m : Address) (r : Resolved), s.resolve m = .done r s →
    s.load (.immediate v) = .done ⟨v, false⟩ s ∧
    (∀ b s1, s.memRead r.ea = .done b s1 → s.load (.memory m) = .done ⟨b, r.crossed⟩ s1) ∧
    (∀ t, s.memRead r.ea = .faulted t → s.load (.memory m) = .faulted t)

/-- An instruction whose operand read meets an unmapped address ends in the faulted state that read leaves, with the address in
the fault mark (R170, R501): the effective address of a read-class or read-modify-write operand, and for JMP through a pointer
the pointer, or the next byte of its page if the pointer's own byte was read. -/
def Obligations.OperandFaultEndsTheInstruction : Prop :=
  (∀ (i : Instr) (src : Source) (s t : State), sourceOf i = some src → s.load src = .faulted t →
    exec i s = .next t ∧ t.fault.isSome = true ∧
      ∃ m r, src = .memory m ∧ s.resolve m = .done r s ∧ (s.fault = none → t.fault = some r.ea)) ∧
  (∀ (i : Instr) (m : Address) (s t : State) (r : Resolved), modifiedOf i = some m → s.resolve m = .done r s →
    s.memRead r.ea = .faulted t → exec i s = .next t ∧ (s.fault = none → t.fault = some r.ea)) ∧
  (∀ (p : Word) (s t : State), s.readWordPW p = .faulted t →
    exec (.jmp (.indirect p)) s = .next t ∧ t.fault.isSome = true ∧
    (s.fault = none → ∀ u, s.memRead p = .faulted u → t.fault = some p) ∧
    (s.fault = none → ∀ lo s1, s.memRead p = .done lo s1 → t.fault = some (wordOf (highByte p) (lowByte p + 1))))

/-! ### Arithmetic -/

/-- ADC (R200): its encodings; the result A + M + C modulo 256, C, V, Z and N, and the cycles; nothing else changes. -/
def Obligations.AdcResult : Prop :=
  sourceRow .adc
    [(.immediate, 0x69), (.zeroPage, 0x65), (.zeroPageX, 0x75), (.absolute, 0x6D),
      (.absoluteX, 0x7D), (.absoluteY, 0x79), (.indexedIndirect, 0x61), (.indirectIndexed, 0x71)] ∧
  ∀ (src : Source) (s s1 : State) (l : Loaded), s.load src = .done l s1 →
    let sum := s1.a.toNat + l.value.toNat + (if s1.flags.c then 1 else 0)
    let r : Byte := BitVec.ofNat 8 sum
    exec (.adc src) s = .next { s1 with
      a := r
      flags := { s1.flags with
        c := decide (sum > 0xFF)
        v := decide (~~~(s1.a ^^^ l.value) &&& (s1.a ^^^ r) &&& 0x80 ≠ 0)
        z := r == 0
        n := r.getLsbD 7 }
      cycles := s1.cycles + (Instr.adc src).baseCycles + penaltyOf l }

/-- SBC (R201): its encodings; ADC of the one's complement of the operand, with C as the carry in. -/
def Obligations.SbcResult : Prop :=
  sourceRow .sbc
    [(.immediate, 0xE9), (.zeroPage, 0xE5), (.zeroPageX, 0xF5), (.absolute, 0xED),
      (.absoluteX, 0xFD), (.absoluteY, 0xF9), (.indexedIndirect, 0xE1), (.indirectIndexed, 0xF1)] ∧
  ∀ (src : Source) (s s1 : State) (l : Loaded), s.load src = .done l s1 →
    let mc := 0xFF ^^^ l.value
    let sum := s1.a.toNat + mc.toNat + (if s1.flags.c then 1 else 0)
    let r : Byte := BitVec.ofNat 8 sum
    exec (.sbc src) s = .next { s1 with
      a := r
      flags := { s1.flags with
        c := decide (sum > 0xFF)
        v := decide (~~~(s1.a ^^^ mc) &&& (s1.a ^^^ r) &&& 0x80 ≠ 0)
        z := r == 0
        n := r.getLsbD 7 }
      cycles := s1.cycles + (Instr.sbc src).baseCycles + penaltyOf l }

/-- SBC subtracts with borrow (R201): the result is A - M - (1 - C) modulo 256, C is 1 iff there is no borrow, and V is 1 iff
the exact signed difference is outside -128 to 127. -/
def Obligations.SbcSubtractsWithBorrow : Prop :=
  ∀ (src : Source) (s s1 : State) (l : Loaded), s.load src = .done l s1 →
    let borrow : Nat := if s1.flags.c then 0 else 1
    let exact : Int := s1.a.toInt - l.value.toInt - borrow
    ∃ t, exec (.sbc src) s = .next t ∧ t.a = s1.a - l.value - BitVec.ofNat 8 borrow ∧
      (t.flags.c = true ↔ l.value.toNat + borrow ≤ s1.a.toNat) ∧ (t.flags.v = true ↔ exact < -128 ∨ 127 < exact)

/-- V after ADC is signed overflow and C unsigned overflow (R203). -/
def Obligations.AdcFlagsAreOverflows : Prop :=
  ∀ (src : Source) (s s1 : State) (l : Loaded), s.load src = .done l s1 →
    let carry : Nat := if s1.flags.c then 1 else 0
    let exact : Int := s1.a.toInt + l.value.toInt + carry
    ∃ t, exec (.adc src) s = .next t ∧ (t.flags.v = true ↔ exact < -128 ∨ 127 < exact) ∧
      (t.flags.c = true ↔ 256 ≤ s1.a.toNat + l.value.toNat + carry) ∧
      t.a.toNat = (s1.a.toNat + l.value.toNat + carry) % 256

/-- The inverse law (R204): ADC m with carry c, then SBC m with carry 1 - c, restores A, and leaves Z and N of A. -/
def Obligations.AdcThenSbcRestoresA : Prop :=
  ∀ (m : Byte) (s : State), ∃ t u, exec (.adc (.immediate m)) s = .next t ∧
    exec (.sbc (.immediate m)) { t with flags := { t.flags with c := !s.flags.c } } = .next u ∧
    u.a = s.a ∧ u.flags.z = (s.a == 0) ∧ u.flags.n = s.a.getLsbD 7

/-! ### Logic and shifts -/

/-- AND, ORA and EOR (R250 to R252): the result in A, Z and N from it. BIT (R253): Z from A and M, N and V from bits 7 and 6 of M,
A unchanged. With their encodings; nothing else changes but the cycles. -/
def Obligations.LogicResults : Prop :=
  sourceRow .and
    [(.immediate, 0x29), (.zeroPage, 0x25), (.zeroPageX, 0x35), (.absolute, 0x2D),
      (.absoluteX, 0x3D), (.absoluteY, 0x39), (.indexedIndirect, 0x21), (.indirectIndexed, 0x31)] ∧
  sourceRow .ora
    [(.immediate, 0x09), (.zeroPage, 0x05), (.zeroPageX, 0x15), (.absolute, 0x0D),
      (.absoluteX, 0x1D), (.absoluteY, 0x19), (.indexedIndirect, 0x01), (.indirectIndexed, 0x11)] ∧
  sourceRow .eor
    [(.immediate, 0x49), (.zeroPage, 0x45), (.zeroPageX, 0x55), (.absolute, 0x4D),
      (.absoluteX, 0x5D), (.absoluteY, 0x59), (.indexedIndirect, 0x41), (.indirectIndexed, 0x51)] ∧
  addressRow .bit [(.zeroPage, 0x24), (.absolute, 0x2C)] ∧
  (∀ (src : Source) (s s1 : State) (l : Loaded), s.load src = .done l s1 →
    exec (.and src) s = .next (spent (resultInA s1 (s1.a &&& l.value)) ((Instr.and src).baseCycles + penaltyOf l)) ∧
    exec (.ora src) s = .next (spent (resultInA s1 (s1.a ||| l.value)) ((Instr.ora src).baseCycles + penaltyOf l)) ∧
    exec (.eor src) s = .next (spent (resultInA s1 (s1.a ^^^ l.value)) ((Instr.eor src).baseCycles + penaltyOf l))) ∧
  (∀ (m : Address) (s s1 : State) (l : Loaded), s.load (.memory m) = .done l s1 →
    exec (.bit m) s = .next { s1 with
      flags := { s1.flags with z := (s1.a &&& l.value) == 0, n := l.value.getLsbD 7, v := l.value.getLsbD 6 }
      cycles := s1.cycles + (Instr.bit m).baseCycles })

/-- ASL, LSR, ROL and ROR (R254 to R258): their encodings, C, Z and N; of the accumulator, 2 cycles and no bus access; of a memory cell, one read and then
one write of the result at the same address. -/
def Obligations.ShiftResults : Prop :=
  placeRow .asl [(.accumulator, 0x0A), (.zeroPage, 0x06), (.zeroPageX, 0x16), (.absolute, 0x0E), (.absoluteX, 0x1E)] ∧
  placeRow .lsr [(.accumulator, 0x4A), (.zeroPage, 0x46), (.zeroPageX, 0x56), (.absolute, 0x4E), (.absoluteX, 0x5E)] ∧
  placeRow .rol [(.accumulator, 0x2A), (.zeroPage, 0x26), (.zeroPageX, 0x36), (.absolute, 0x2E), (.absoluteX, 0x3E)] ∧
  placeRow .ror [(.accumulator, 0x6A), (.zeroPage, 0x66), (.zeroPageX, 0x76), (.absolute, 0x6E), (.absoluteX, 0x7E)] ∧
  (∀ s : State,
     let bit0 : Byte := if s.flags.c then 0x01 else 0
     let bit7 : Byte := if s.flags.c then 0x80 else 0
     exec (.asl .accumulator) s =
       .next (spent { shiftFlags s (s.a.getLsbD 7) (s.a <<< 1) with a := s.a <<< 1 } 2) ∧
     exec (.lsr .accumulator) s =
       .next (spent { shiftFlags s (s.a.getLsbD 0) (s.a >>> 1) with a := s.a >>> 1 } 2) ∧
     exec (.rol .accumulator) s =
       .next (spent { shiftFlags s (s.a.getLsbD 7) (s.a <<< 1 ||| bit0) with a := s.a <<< 1 ||| bit0 } 2) ∧
     exec (.ror .accumulator) s =
       .next (spent { shiftFlags s (s.a.getLsbD 0) (s.a >>> 1 ||| bit7) with a := s.a >>> 1 ||| bit7 } 2)) ∧
  (∀ (m : Address) (s s1 : State) (r : Resolved) (v : Byte), s.resolve m = .done r s → s.memRead r.ea = .done v s1 →
     let bit0 : Byte := if s1.flags.c then 0x01 else 0
     let bit7 : Byte := if s1.flags.c then 0x80 else 0
     let written (carry : Bool) (b : Byte) (base : Nat) : State := spent ((shiftFlags s1 carry b).memWrite r.ea b) base
     exec (.asl (.memory m)) s =
       .next (written (v.getLsbD 7) (v <<< 1) (Instr.asl (.memory m)).baseCycles) ∧
     exec (.lsr (.memory m)) s =
       .next (written (v.getLsbD 0) (v >>> 1) (Instr.lsr (.memory m)).baseCycles) ∧
     exec (.rol (.memory m)) s =
       .next (written (v.getLsbD 7) (v <<< 1 ||| bit0) (Instr.rol (.memory m)).baseCycles) ∧
     exec (.ror (.memory m)) s =
       .next (written (v.getLsbD 0) (v >>> 1 ||| bit7) (Instr.ror (.memory m)).baseCycles))

/-! ### Control flow -/

/-- The eight branches (R300 to R308): their encodings and conditions; taken, PC is the target and 1 cycle is added, and 1 more if
the target is on another page than the PC after the branch; not taken, PC stays; nothing else changes. -/
def Obligations.BranchResults : Prop :=
  ∀ (d : Byte) (s : State),
    (encode (.bcc d) = [0x90, d] ∧ encode (.bcs d) = [0xB0, d] ∧ encode (.beq d) = [0xF0, d] ∧
      encode (.bne d) = [0xD0, d] ∧ encode (.bmi d) = [0x30, d] ∧ encode (.bpl d) = [0x10, d] ∧
      encode (.bvc d) = [0x50, d] ∧ encode (.bvs d) = [0x70, d]) ∧
    exec (.bcc d) s = .next (branched s (!s.flags.c) d) ∧ exec (.bcs d) s = .next (branched s s.flags.c d) ∧
    exec (.beq d) s = .next (branched s s.flags.z d) ∧ exec (.bne d) s = .next (branched s (!s.flags.z) d) ∧
    exec (.bmi d) s = .next (branched s s.flags.n d) ∧ exec (.bpl d) s = .next (branched s (!s.flags.n) d) ∧
    exec (.bvc d) s = .next (branched s (!s.flags.v) d) ∧ exec (.bvs d) s = .next (branched s s.flags.v d)

/-- JMP (R309): PC is the absolute address, or the page-wrapped word at the pointer. JSR (R311): the address of its own last byte
is pushed, high byte first, and PC is the target. RTS (R312): PC is the pulled word plus 1. With their encodings. -/
def Obligations.JumpResults : Prop :=
  (∀ w : Word, encode (.jmp (.absolute w)) = [0x4C, lowByte w, highByte w] ∧
    encode (.jmp (.indirect w)) = [0x6C, lowByte w, highByte w] ∧ encode (.jsr w) = [0x20, lowByte w, highByte w]) ∧
  encode .rts = [0x60] ∧
  (∀ (w : Word) (s : State), exec (.jmp (.absolute w)) s = .next { s with pc := w, cycles := s.cycles + 3 }) ∧
  (∀ (p w : Word) (s s1 : State), s.readWordPW p = .done w s1 →
    exec (.jmp (.indirect p)) s = .next { s1 with pc := w, cycles := s1.cycles + 5 }) ∧
  (∀ (w : Word) (s : State), exec (.jsr w) s = .next { s with
    ram := (s.ram.write none (0x100 + s.sp.toNat) (highByte (s.pc - 1))).write none (0x100 + (s.sp - 1).toNat)
      (lowByte (s.pc - 1))
    sp := s.sp - 2
    pc := w
    cycles := s.cycles + 6 }) ∧
  (∀ s : State, exec .rts s = .next { s with
    pc := wordOf (s.ramRead (stackAddress (s.sp + 2))) (s.ramRead (stackAddress (s.sp + 1))) + 1
    sp := s.sp + 2
    cycles := s.cycles + 6 })

/-- RTS at the start of a subroutine returns past its JSR (R311, R312): PC, SP and everything but the two stack bytes and the
cycles are as before the JSR. -/
def Obligations.SubroutineReturns : Prop :=
  ∀ (w : Word) (s : State), ∃ t, exec (.jsr w) s = .next t ∧
    exec .rts t = .next { s with ram := t.ram, cycles := s.cycles + 12 }

/-! ### Registers and flags -/

/-- The seven flag instructions (R350 to R356): their encodings; each writes its flag and nothing else, in 2 cycles. -/
def Obligations.FlagInstructionResults : Prop :=
  (encode .clc = [0x18] ∧ encode .sec = [0x38] ∧ encode .cli = [0x58] ∧ encode .sei = [0x78] ∧ encode .cld = [0xD8] ∧
    encode .sed = [0xF8] ∧ encode .clv = [0xB8]) ∧
  ∀ s : State,
    exec .clc s = .next { s with flags := { s.flags with c := false }, cycles := s.cycles + 2 } ∧
    exec .sec s = .next { s with flags := { s.flags with c := true }, cycles := s.cycles + 2 } ∧
    exec .cli s = .next { s with flags := { s.flags with i := false }, cycles := s.cycles + 2 } ∧
    exec .sei s = .next { s with flags := { s.flags with i := true }, cycles := s.cycles + 2 } ∧
    exec .cld s = .next { s with flags := { s.flags with d := false }, cycles := s.cycles + 2 } ∧
    exec .sed s = .next { s with flags := { s.flags with d := true }, cycles := s.cycles + 2 } ∧
    exec .clv s = .next { s with flags := { s.flags with v := false }, cycles := s.cycles + 2 }

/-- The six register transfers (R357 to R362): their encodings; Z and N from the value, but TXS writes no flag; 2 cycles. -/
def Obligations.TransferResults : Prop :=
  (encode .tax = [0xAA] ∧ encode .tay = [0xA8] ∧ encode .txa = [0x8A] ∧ encode .tya = [0x98] ∧ encode .tsx = [0xBA] ∧
    encode .txs = [0x9A]) ∧
  ∀ s : State,
    exec .tax s = .next (spent (resultInX s s.a) 2) ∧ exec .tay s = .next (spent (resultInY s s.a) 2) ∧
    exec .txa s = .next (spent (resultInA s s.x) 2) ∧ exec .tya s = .next (spent (resultInA s s.y) 2) ∧
    exec .tsx s = .next (spent (resultInX s s.sp) 2) ∧ exec .txs s = .next (spent { s with sp := s.x } 2)

/-- INX, INY, DEX and DEY (R363 to R366): their encodings; modulo 256, with Z and N and no carry or overflow; 2 cycles. -/
def Obligations.RegisterStepResults : Prop :=
  (encode .inx = [0xE8] ∧ encode .iny = [0xC8] ∧ encode .dex = [0xCA] ∧ encode .dey = [0x88]) ∧
  ∀ s : State,
    exec .inx s = .next (spent (resultInX s (s.x + 1)) 2) ∧ exec .iny s = .next (spent (resultInY s (s.y + 1)) 2) ∧
    exec .dex s = .next (spent (resultInX s (s.x - 1)) 2) ∧ exec .dey s = .next (spent (resultInY s (s.y - 1)) 2)

/-- INC and DEC (R367, R368): their encodings; one read and then one write of the result at the same address. -/
def Obligations.MemoryStepResults : Prop :=
  addressRow .inc [(.zeroPage, 0xE6), (.zeroPageX, 0xF6), (.absolute, 0xEE), (.absoluteX, 0xFE)] ∧
  addressRow .dec [(.zeroPage, 0xC6), (.zeroPageX, 0xD6), (.absolute, 0xCE), (.absoluteX, 0xDE)] ∧
  ∀ (m : Address) (s s1 : State) (r : Resolved) (v : Byte), s.resolve m = .done r s → s.memRead r.ea = .done v s1 →
    exec (.inc m) s = .next (spent ((withZN s1 (v + 1)).memWrite r.ea (v + 1)) (Instr.inc m).baseCycles) ∧
    exec (.dec m) s = .next (spent ((withZN s1 (v - 1)).memWrite r.ea (v - 1)) (Instr.dec m).baseCycles)

/-- CMP, CPX and CPY (R369 to R372): their encodings; C, Z and N from the register and the operand; no register and no V is
written. -/
def Obligations.CompareResults : Prop :=
  sourceRow .cmp
    [(.immediate, 0xC9), (.zeroPage, 0xC5), (.zeroPageX, 0xD5), (.absolute, 0xCD),
      (.absoluteX, 0xDD), (.absoluteY, 0xD9), (.indexedIndirect, 0xC1), (.indirectIndexed, 0xD1)] ∧
  sourceRow .cpx [(.immediate, 0xE0), (.zeroPage, 0xE4), (.absolute, 0xEC)] ∧
  sourceRow .cpy [(.immediate, 0xC0), (.zeroPage, 0xC4), (.absolute, 0xCC)] ∧
  ∀ (src : Source) (s s1 : State) (l : Loaded), s.load src = .done l s1 →
    exec (.cmp src) s = .next (spent (compared s1 s1.a l.value) ((Instr.cmp src).baseCycles + penaltyOf l)) ∧
    exec (.cpx src) s = .next (spent (compared s1 s1.x l.value) (Instr.cpx src).baseCycles) ∧
    exec (.cpy src) s = .next (spent (compared s1 s1.y l.value) (Instr.cpy src).baseCycles)

/-! ### Loads, stores and the stack -/

/-- LDA, LDX and LDY (R400 to R402): their encodings; the register takes the operand, Z and N are from it, and nothing else changes
but the cycles. -/
def Obligations.LoadResults : Prop :=
  sourceRow .lda
    [(.immediate, 0xA9), (.zeroPage, 0xA5), (.zeroPageX, 0xB5), (.absolute, 0xAD),
      (.absoluteX, 0xBD), (.absoluteY, 0xB9), (.indexedIndirect, 0xA1), (.indirectIndexed, 0xB1)] ∧
  sourceRow .ldx [(.immediate, 0xA2), (.zeroPage, 0xA6), (.zeroPageY, 0xB6), (.absolute, 0xAE), (.absoluteY, 0xBE)] ∧
  sourceRow .ldy [(.immediate, 0xA0), (.zeroPage, 0xA4), (.zeroPageX, 0xB4), (.absolute, 0xAC), (.absoluteX, 0xBC)] ∧
  ∀ (src : Source) (s s1 : State) (l : Loaded), s.load src = .done l s1 →
    exec (.lda src) s = .next (spent (resultInA s1 l.value) ((Instr.lda src).baseCycles + penaltyOf l)) ∧
    exec (.ldx src) s = .next (spent (resultInX s1 l.value) ((Instr.ldx src).baseCycles + penaltyOf l)) ∧
    exec (.ldy src) s = .next (spent (resultInY s1 l.value) ((Instr.ldy src).baseCycles + penaltyOf l))

/-- STA, STX and STY (R403 to R405): their encodings; one write at the effective address, no read of it, no flag, no penalty, no fault. -/
def Obligations.StoreResults : Prop :=
  addressRow .sta
    [(.zeroPage, 0x85), (.zeroPageX, 0x95), (.absolute, 0x8D), (.absoluteX, 0x9D),
      (.absoluteY, 0x99), (.indexedIndirect, 0x81), (.indirectIndexed, 0x91)] ∧
  addressRow .stx [(.zeroPage, 0x86), (.zeroPageY, 0x96), (.absolute, 0x8E)] ∧
  addressRow .sty [(.zeroPage, 0x84), (.zeroPageX, 0x94), (.absolute, 0x8C)] ∧
  ∀ (m : Address) (s : State), ∃ r, s.resolve m = .done r s ∧
    exec (.sta m) s = .next (spent (s.memWrite r.ea s.a) (Instr.sta m).baseCycles) ∧
    exec (.stx m) s = .next (spent (s.memWrite r.ea s.x) (Instr.stx m).baseCycles) ∧
    exec (.sty m) s = .next (spent (s.memWrite r.ea s.y) (Instr.sty m).baseCycles)

/-- PHA, PHP, PLA and PLP (R406 to R409): their encodings, the byte pushed or pulled, SP, the flags that PLA and PLP write, and the
cycles; none of them faults. -/
def Obligations.StackInstructionResults : Prop :=
  (encode .pha = [0x48] ∧ encode .php = [0x08] ∧ encode .pla = [0x68] ∧ encode .plp = [0x28]) ∧
  ∀ s : State,
    let top := s.ramRead (stackAddress (s.sp + 1))
    exec .pha s = .next { s with
      ram := s.ram.write none (0x100 + s.sp.toNat) s.a, sp := s.sp - 1, cycles := s.cycles + 3 } ∧
    exec .php s = .next { s with
      ram := s.ram.write none (0x100 + s.sp.toNat) (s.flags.getSr ||| 0x10), sp := s.sp - 1, cycles := s.cycles + 3 } ∧
    exec .pla s = .next (spent { resultInA s top with sp := s.sp + 1 } 4) ∧
    exec .plp s = .next { s with
      flags := ⟨top.getLsbD 0, top.getLsbD 1, top.getLsbD 2, top.getLsbD 3, top.getLsbD 4, top.getLsbD 6, top.getLsbD 7⟩
      sp := s.sp + 1
      cycles := s.cycles + 4 }

/-- NOP (R450) changes nothing but the cycles; an undocumented opcode (R451) changes nothing but the cycles and the model's
own sticky mark (log entry 9). -/
def Obligations.NoOperationResults : Prop :=
  encode .nop = [0xEA] ∧
  ∀ (b : Byte) (s : State),
    exec .nop s = .next { s with cycles := s.cycles + 2 } ∧
    exec (.undoc b) s = .next { s with cycles := s.cycles + 2, undocExecuted := true }

/-- The status byte (R40, R41): what each bit packs and unpacks, bit 5 always 1, and both round trips. -/
def Obligations.StatusByteRoundTrip : Prop :=
  (∀ f : Flags, f.getSr.getLsbD 0 = f.c ∧ f.getSr.getLsbD 1 = f.z ∧ f.getSr.getLsbD 2 = f.i ∧
    f.getSr.getLsbD 3 = f.d ∧ f.getSr.getLsbD 4 = f.b ∧ f.getSr.getLsbD 5 = true ∧ f.getSr.getLsbD 6 = f.v ∧
    f.getSr.getLsbD 7 = f.n ∧ Flags.ofSr f.getSr = f) ∧
  (∀ v : Byte, Flags.ofSr v =
    ⟨v.getLsbD 0, v.getLsbD 1, v.getLsbD 2, v.getLsbD 3, v.getLsbD 4, v.getLsbD 6, v.getLsbD 7⟩ ∧
    (Flags.ofSr v).getSr = v ||| 0x20)
end

