-- ==== Sys2Proof/Laws/Memory.lean ====
section
/-! SUPPORT. The laws of Memory: read after write, and that a write keeps the canonical form. -/

namespace Sys2Proof.Machine

/-- What the memory reads as at the address, `d` standing for an unlisted cell. -/
theorem Memory.lookup_none_of_wfFrom {size lo k : Nat} {blank : Option Byte} {m : Memory}
    (h : m.wfFrom size blank lo = true) (hk : k < lo) : m.lookup k = none := by
  induction m generalizing lo with
  | nil => rfl
  | cons c m ih =>
    obtain ⟨a, v⟩ := c
    simp only [Memory.wfFrom, Bool.and_eq_true, decide_eq_true_eq] at h
    have hne : a ≠ k := by omega
    simp [Memory.lookup, hne, ih h.2 (by omega)]

theorem Memory.wfFrom_mono {size lo lo' : Nat} {blank : Option Byte} {m : Memory}
    (h : m.wfFrom size blank lo = true) (hlo : lo' ≤ lo) : m.wfFrom size blank lo' = true := by
  cases m with
  | nil => rfl
  | cons c m =>
    obtain ⟨a, v⟩ := c
    simp only [Memory.wfFrom, Bool.and_eq_true, decide_eq_true_eq] at h ⊢
    exact ⟨⟨⟨by omega, h.1.1.2⟩, h.1.2⟩, h.2⟩

theorem Memory.wfFrom_place {size lo k : Nat} {blank : Option Byte} {v : Byte} {m : Memory}
    (h : m.wfFrom size blank (k + 1) = true) (hlo : lo ≤ k) (hk : k < size) :
    (Memory.place blank k v m).wfFrom size blank lo = true := by
  unfold Memory.place
  split
  · exact Memory.wfFrom_mono h (by omega)
  · rename_i hb
    simp [Memory.wfFrom, hlo, hk, h, hb]

theorem Memory.wfFrom_write {size lo k : Nat} {blank : Option Byte} {v : Byte} {m : Memory}
    (h : m.wfFrom size blank lo = true) (hlo : lo ≤ k) (hk : k < size) :
    (Memory.write blank m k v).wfFrom size blank lo = true := by
  induction m generalizing lo with
  | nil => exact Memory.wfFrom_place rfl hlo hk
  | cons c m ih =>
    obtain ⟨a, w⟩ := c
    have h' := h
    simp only [Memory.wfFrom, Bool.and_eq_true, decide_eq_true_eq] at h'
    unfold Memory.write
    split
    · refine Memory.wfFrom_place ?_ hlo hk
      simp only [Memory.wfFrom, Bool.and_eq_true, decide_eq_true_eq]
      exact ⟨⟨⟨by omega, h'.1.1.2⟩, h'.1.2⟩, h'.2⟩
    · split
      · rename_i hka
        subst hka
        exact Memory.wfFrom_place h'.2 hlo hk
      · simp only [Memory.wfFrom, Bool.and_eq_true, decide_eq_true_eq]
        exact ⟨⟨⟨h'.1.1.1, h'.1.1.2⟩, h'.1.2⟩, ih h'.2 (by omega)⟩

/-- A write at an address of the memory keeps the canonical form. -/
theorem Memory.wf_write {size k : Nat} {blank : Option Byte} {v : Byte} {m : Memory} (h : m.wf size blank = true)
    (hk : k < size) : (Memory.write blank m k v).wf size blank = true :=
  Memory.wfFrom_write h (Nat.zero_le k) hk

theorem Memory.lookup_place_of_ne {blank : Option Byte} {k j : Nat} {v : Byte} {m : Memory} (hj : k ≠ j) :
    (Memory.place blank k v m).lookup j = m.lookup j := by
  unfold Memory.place
  split <;> simp [Memory.lookup, hj]

/-- A write leaves every other address alone. -/
theorem Memory.lookup_write_of_ne {blank : Option Byte} {k j : Nat} {v : Byte} {m : Memory} (hj : k ≠ j) :
    (Memory.write blank m k v).lookup j = m.lookup j := by
  induction m with
  | nil => exact Memory.lookup_place_of_ne hj
  | cons c m ih =>
    obtain ⟨a, w⟩ := c
    unfold Memory.write
    split
    · exact Memory.lookup_place_of_ne hj
    · split
      · rename_i hka
        rw [Memory.lookup_place_of_ne hj]
        simp [Memory.lookup, ← hka, hj]
      · simp only [Memory.lookup, ih]

theorem Memory.lookup_place_self {size k : Nat} {blank : Option Byte} {v : Byte} {m : Memory}
    (h : m.wfFrom size blank (k + 1) = true) :
    (Memory.place blank k v m).lookup k = if blank = some v then none else some v := by
  unfold Memory.place
  split
  · exact Memory.lookup_none_of_wfFrom h (by omega)
  · simp [Memory.lookup]

theorem Memory.lookup_write_self_from {size lo k : Nat} {blank : Option Byte} {v : Byte} {m : Memory}
    (h : m.wfFrom size blank lo = true) :
    (Memory.write blank m k v).lookup k = if blank = some v then none else some v := by
  induction m generalizing lo with
  | nil => exact Memory.lookup_place_self (size := size) rfl
  | cons c m ih =>
    obtain ⟨a, w⟩ := c
    have h' := h
    simp only [Memory.wfFrom, Bool.and_eq_true, decide_eq_true_eq] at h'
    unfold Memory.write
    split
    · refine Memory.lookup_place_self (size := size) ?_
      simp only [Memory.wfFrom, Bool.and_eq_true, decide_eq_true_eq]
      exact ⟨⟨⟨by omega, h'.1.1.2⟩, h'.1.2⟩, h'.2⟩
    · split
      · rename_i hka
        subst hka
        exact Memory.lookup_place_self h'.2
      · rename_i hka
        have hne : a ≠ k := fun e => hka e.symm
        simp only [Memory.lookup, hne, if_false]
        exact ih h'.2

/-- A write gives the address the byte written: an unlisted cell where that is `blank`. -/
theorem Memory.getD_lookup_write_self {size k : Nat} {blank : Option Byte} {v d : Byte} {m : Memory}
    (h : m.wf size blank = true) (hd : blank = some v → d = v) :
    ((Memory.write blank m k v).lookup k).getD d = v := by
  rw [Memory.lookup_write_self_from h]
  split
  · rename_i hb
    simpa using hd hb
  · rfl

theorem Memory.lookup_place_none_self {k : Nat} {v : Byte} {m : Memory} :
    (Memory.place none k v m).lookup k = some v := by
  simp [Memory.place, Memory.lookup]

/-- Where no byte is blank a write gives the address the byte written in any memory, canonical or not. -/
theorem Memory.lookup_write_none_self {k : Nat} {v : Byte} {m : Memory} :
    (Memory.write none m k v).lookup k = some v := by
  induction m with
  | nil => exact Memory.lookup_place_none_self
  | cons c m ih =>
    obtain ⟨a, w⟩ := c
    unfold Memory.write
    split
    · exact Memory.lookup_place_none_self
    · split
      · exact Memory.lookup_place_none_self
      · rename_i hka
        have hne : a ≠ k := fun e => hka e.symm
        simp only [Memory.lookup, hne, if_false]
        exact ih

theorem Memory.wfFrom_cellsFrom {size lo n : Nat} (f : Nat → Byte) (hn : lo + n ≤ size) :
    Memory.wfFrom size none lo ((List.range' lo n).map fun a => (a, f a)) = true := by
  induction n generalizing lo with
  | zero => rfl
  | succ n ih =>
    have hlt : lo < size := by omega
    simp [List.range'_succ, Memory.wfFrom, hlt, ih (lo := lo + 1) (by omega)]

/-- A memory that lists a byte at every address is in canonical form. -/
theorem Memory.wf_filled {size : Nat} {v : Byte} : (Memory.filled size v).wf size none = true := by
  unfold Memory.filled Memory.wf
  rw [List.range_eq_range']
  exact Memory.wfFrom_cellsFrom (fun _ => v) (by omega)

end Sys2Proof.Machine
end

