-- ==== Sys2Proof/Laws/State.lean ====
section
/-! SUPPORT. One lemma per field per update of State, each true by definition, so that no later proof unfolds an update. -/

namespace Sys2Proof.Machine

@[simp] theorem State.setA_a (s : State) (v : Byte) : (s.setA v).a = v := rfl
@[simp] theorem State.setA_x (s : State) (v : Byte) : (s.setA v).x = s.x := rfl
@[simp] theorem State.setA_y (s : State) (v : Byte) : (s.setA v).y = s.y := rfl
@[simp] theorem State.setA_sp (s : State) (v : Byte) : (s.setA v).sp = s.sp := rfl
@[simp] theorem State.setA_pc (s : State) (v : Byte) : (s.setA v).pc = s.pc := rfl
@[simp] theorem State.setA_flags (s : State) (v : Byte) : (s.setA v).flags = s.flags := rfl
@[simp] theorem State.setA_nmiPending (s : State) (v : Byte) : (s.setA v).nmiPending = s.nmiPending := rfl
@[simp] theorem State.setA_irqPending (s : State) (v : Byte) : (s.setA v).irqPending = s.irqPending := rfl
@[simp] theorem State.setA_cycles (s : State) (v : Byte) : (s.setA v).cycles = s.cycles := rfl
@[simp] theorem State.setA_ram (s : State) (v : Byte) : (s.setA v).ram = s.ram := rfl
@[simp] theorem State.setA_fault (s : State) (v : Byte) : (s.setA v).fault = s.fault := rfl
@[simp] theorem State.setA_mapper (s : State) (v : Byte) : (s.setA v).mapper = s.mapper := rfl
@[simp] theorem State.setA_ioLog (s : State) (v : Byte) : (s.setA v).ioLog = s.ioLog := rfl
@[simp] theorem State.setA_draws (s : State) (v : Byte) : (s.setA v).draws = s.draws := rfl
@[simp] theorem State.setA_ramDraw (s : State) (v : Byte) : (s.setA v).ramDraw = s.ramDraw := rfl
@[simp] theorem State.setA_undocExecuted (s : State) (v : Byte) : (s.setA v).undocExecuted = s.undocExecuted := rfl

@[simp] theorem State.setX_a (s : State) (v : Byte) : (s.setX v).a = s.a := rfl
@[simp] theorem State.setX_x (s : State) (v : Byte) : (s.setX v).x = v := rfl
@[simp] theorem State.setX_y (s : State) (v : Byte) : (s.setX v).y = s.y := rfl
@[simp] theorem State.setX_sp (s : State) (v : Byte) : (s.setX v).sp = s.sp := rfl
@[simp] theorem State.setX_pc (s : State) (v : Byte) : (s.setX v).pc = s.pc := rfl
@[simp] theorem State.setX_flags (s : State) (v : Byte) : (s.setX v).flags = s.flags := rfl
@[simp] theorem State.setX_nmiPending (s : State) (v : Byte) : (s.setX v).nmiPending = s.nmiPending := rfl
@[simp] theorem State.setX_irqPending (s : State) (v : Byte) : (s.setX v).irqPending = s.irqPending := rfl
@[simp] theorem State.setX_cycles (s : State) (v : Byte) : (s.setX v).cycles = s.cycles := rfl
@[simp] theorem State.setX_ram (s : State) (v : Byte) : (s.setX v).ram = s.ram := rfl
@[simp] theorem State.setX_fault (s : State) (v : Byte) : (s.setX v).fault = s.fault := rfl
@[simp] theorem State.setX_mapper (s : State) (v : Byte) : (s.setX v).mapper = s.mapper := rfl
@[simp] theorem State.setX_ioLog (s : State) (v : Byte) : (s.setX v).ioLog = s.ioLog := rfl
@[simp] theorem State.setX_draws (s : State) (v : Byte) : (s.setX v).draws = s.draws := rfl
@[simp] theorem State.setX_ramDraw (s : State) (v : Byte) : (s.setX v).ramDraw = s.ramDraw := rfl
@[simp] theorem State.setX_undocExecuted (s : State) (v : Byte) : (s.setX v).undocExecuted = s.undocExecuted := rfl

@[simp] theorem State.setY_a (s : State) (v : Byte) : (s.setY v).a = s.a := rfl
@[simp] theorem State.setY_x (s : State) (v : Byte) : (s.setY v).x = s.x := rfl
@[simp] theorem State.setY_y (s : State) (v : Byte) : (s.setY v).y = v := rfl
@[simp] theorem State.setY_sp (s : State) (v : Byte) : (s.setY v).sp = s.sp := rfl
@[simp] theorem State.setY_pc (s : State) (v : Byte) : (s.setY v).pc = s.pc := rfl
@[simp] theorem State.setY_flags (s : State) (v : Byte) : (s.setY v).flags = s.flags := rfl
@[simp] theorem State.setY_nmiPending (s : State) (v : Byte) : (s.setY v).nmiPending = s.nmiPending := rfl
@[simp] theorem State.setY_irqPending (s : State) (v : Byte) : (s.setY v).irqPending = s.irqPending := rfl
@[simp] theorem State.setY_cycles (s : State) (v : Byte) : (s.setY v).cycles = s.cycles := rfl
@[simp] theorem State.setY_ram (s : State) (v : Byte) : (s.setY v).ram = s.ram := rfl
@[simp] theorem State.setY_fault (s : State) (v : Byte) : (s.setY v).fault = s.fault := rfl
@[simp] theorem State.setY_mapper (s : State) (v : Byte) : (s.setY v).mapper = s.mapper := rfl
@[simp] theorem State.setY_ioLog (s : State) (v : Byte) : (s.setY v).ioLog = s.ioLog := rfl
@[simp] theorem State.setY_draws (s : State) (v : Byte) : (s.setY v).draws = s.draws := rfl
@[simp] theorem State.setY_ramDraw (s : State) (v : Byte) : (s.setY v).ramDraw = s.ramDraw := rfl
@[simp] theorem State.setY_undocExecuted (s : State) (v : Byte) : (s.setY v).undocExecuted = s.undocExecuted := rfl

@[simp] theorem State.setSp_a (s : State) (v : Byte) : (s.setSp v).a = s.a := rfl
@[simp] theorem State.setSp_x (s : State) (v : Byte) : (s.setSp v).x = s.x := rfl
@[simp] theorem State.setSp_y (s : State) (v : Byte) : (s.setSp v).y = s.y := rfl
@[simp] theorem State.setSp_sp (s : State) (v : Byte) : (s.setSp v).sp = v := rfl
@[simp] theorem State.setSp_pc (s : State) (v : Byte) : (s.setSp v).pc = s.pc := rfl
@[simp] theorem State.setSp_flags (s : State) (v : Byte) : (s.setSp v).flags = s.flags := rfl
@[simp] theorem State.setSp_nmiPending (s : State) (v : Byte) : (s.setSp v).nmiPending = s.nmiPending := rfl
@[simp] theorem State.setSp_irqPending (s : State) (v : Byte) : (s.setSp v).irqPending = s.irqPending := rfl
@[simp] theorem State.setSp_cycles (s : State) (v : Byte) : (s.setSp v).cycles = s.cycles := rfl
@[simp] theorem State.setSp_ram (s : State) (v : Byte) : (s.setSp v).ram = s.ram := rfl
@[simp] theorem State.setSp_fault (s : State) (v : Byte) : (s.setSp v).fault = s.fault := rfl
@[simp] theorem State.setSp_mapper (s : State) (v : Byte) : (s.setSp v).mapper = s.mapper := rfl
@[simp] theorem State.setSp_ioLog (s : State) (v : Byte) : (s.setSp v).ioLog = s.ioLog := rfl
@[simp] theorem State.setSp_draws (s : State) (v : Byte) : (s.setSp v).draws = s.draws := rfl
@[simp] theorem State.setSp_ramDraw (s : State) (v : Byte) : (s.setSp v).ramDraw = s.ramDraw := rfl
@[simp] theorem State.setSp_undocExecuted (s : State) (v : Byte) : (s.setSp v).undocExecuted = s.undocExecuted := rfl

@[simp] theorem State.setPc_a (s : State) (v : Word) : (s.setPc v).a = s.a := rfl
@[simp] theorem State.setPc_x (s : State) (v : Word) : (s.setPc v).x = s.x := rfl
@[simp] theorem State.setPc_y (s : State) (v : Word) : (s.setPc v).y = s.y := rfl
@[simp] theorem State.setPc_sp (s : State) (v : Word) : (s.setPc v).sp = s.sp := rfl
@[simp] theorem State.setPc_pc (s : State) (v : Word) : (s.setPc v).pc = v := rfl
@[simp] theorem State.setPc_flags (s : State) (v : Word) : (s.setPc v).flags = s.flags := rfl
@[simp] theorem State.setPc_nmiPending (s : State) (v : Word) : (s.setPc v).nmiPending = s.nmiPending := rfl
@[simp] theorem State.setPc_irqPending (s : State) (v : Word) : (s.setPc v).irqPending = s.irqPending := rfl
@[simp] theorem State.setPc_cycles (s : State) (v : Word) : (s.setPc v).cycles = s.cycles := rfl
@[simp] theorem State.setPc_ram (s : State) (v : Word) : (s.setPc v).ram = s.ram := rfl
@[simp] theorem State.setPc_fault (s : State) (v : Word) : (s.setPc v).fault = s.fault := rfl
@[simp] theorem State.setPc_mapper (s : State) (v : Word) : (s.setPc v).mapper = s.mapper := rfl
@[simp] theorem State.setPc_ioLog (s : State) (v : Word) : (s.setPc v).ioLog = s.ioLog := rfl
@[simp] theorem State.setPc_draws (s : State) (v : Word) : (s.setPc v).draws = s.draws := rfl
@[simp] theorem State.setPc_ramDraw (s : State) (v : Word) : (s.setPc v).ramDraw = s.ramDraw := rfl
@[simp] theorem State.setPc_undocExecuted (s : State) (v : Word) : (s.setPc v).undocExecuted = s.undocExecuted := rfl

@[simp] theorem State.setFlags_a (s : State) (v : Flags) : (s.setFlags v).a = s.a := rfl
@[simp] theorem State.setFlags_x (s : State) (v : Flags) : (s.setFlags v).x = s.x := rfl
@[simp] theorem State.setFlags_y (s : State) (v : Flags) : (s.setFlags v).y = s.y := rfl
@[simp] theorem State.setFlags_sp (s : State) (v : Flags) : (s.setFlags v).sp = s.sp := rfl
@[simp] theorem State.setFlags_pc (s : State) (v : Flags) : (s.setFlags v).pc = s.pc := rfl
@[simp] theorem State.setFlags_flags (s : State) (v : Flags) : (s.setFlags v).flags = v := rfl
@[simp] theorem State.setFlags_nmiPending (s : State) (v : Flags) : (s.setFlags v).nmiPending = s.nmiPending := rfl
@[simp] theorem State.setFlags_irqPending (s : State) (v : Flags) : (s.setFlags v).irqPending = s.irqPending := rfl
@[simp] theorem State.setFlags_cycles (s : State) (v : Flags) : (s.setFlags v).cycles = s.cycles := rfl
@[simp] theorem State.setFlags_ram (s : State) (v : Flags) : (s.setFlags v).ram = s.ram := rfl
@[simp] theorem State.setFlags_fault (s : State) (v : Flags) : (s.setFlags v).fault = s.fault := rfl
@[simp] theorem State.setFlags_mapper (s : State) (v : Flags) : (s.setFlags v).mapper = s.mapper := rfl
@[simp] theorem State.setFlags_ioLog (s : State) (v : Flags) : (s.setFlags v).ioLog = s.ioLog := rfl
@[simp] theorem State.setFlags_draws (s : State) (v : Flags) : (s.setFlags v).draws = s.draws := rfl
@[simp] theorem State.setFlags_ramDraw (s : State) (v : Flags) : (s.setFlags v).ramDraw = s.ramDraw := rfl
@[simp] theorem State.setFlags_undocExecuted (s : State) (v : Flags) : (s.setFlags v).undocExecuted = s.undocExecuted := rfl

@[simp] theorem State.setNmiPending_a (s : State) (v : Bool) : (s.setNmiPending v).a = s.a := rfl
@[simp] theorem State.setNmiPending_x (s : State) (v : Bool) : (s.setNmiPending v).x = s.x := rfl
@[simp] theorem State.setNmiPending_y (s : State) (v : Bool) : (s.setNmiPending v).y = s.y := rfl
@[simp] theorem State.setNmiPending_sp (s : State) (v : Bool) : (s.setNmiPending v).sp = s.sp := rfl
@[simp] theorem State.setNmiPending_pc (s : State) (v : Bool) : (s.setNmiPending v).pc = s.pc := rfl
@[simp] theorem State.setNmiPending_flags (s : State) (v : Bool) : (s.setNmiPending v).flags = s.flags := rfl
@[simp] theorem State.setNmiPending_nmiPending (s : State) (v : Bool) : (s.setNmiPending v).nmiPending = v := rfl
@[simp] theorem State.setNmiPending_irqPending (s : State) (v : Bool) : (s.setNmiPending v).irqPending = s.irqPending := rfl
@[simp] theorem State.setNmiPending_cycles (s : State) (v : Bool) : (s.setNmiPending v).cycles = s.cycles := rfl
@[simp] theorem State.setNmiPending_ram (s : State) (v : Bool) : (s.setNmiPending v).ram = s.ram := rfl
@[simp] theorem State.setNmiPending_fault (s : State) (v : Bool) : (s.setNmiPending v).fault = s.fault := rfl
@[simp] theorem State.setNmiPending_mapper (s : State) (v : Bool) : (s.setNmiPending v).mapper = s.mapper := rfl
@[simp] theorem State.setNmiPending_ioLog (s : State) (v : Bool) : (s.setNmiPending v).ioLog = s.ioLog := rfl
@[simp] theorem State.setNmiPending_draws (s : State) (v : Bool) : (s.setNmiPending v).draws = s.draws := rfl
@[simp] theorem State.setNmiPending_ramDraw (s : State) (v : Bool) : (s.setNmiPending v).ramDraw = s.ramDraw := rfl
@[simp] theorem State.setNmiPending_undocExecuted (s : State) (v : Bool) : (s.setNmiPending v).undocExecuted = s.undocExecuted := rfl

@[simp] theorem State.setIrqPending_a (s : State) (v : Bool) : (s.setIrqPending v).a = s.a := rfl
@[simp] theorem State.setIrqPending_x (s : State) (v : Bool) : (s.setIrqPending v).x = s.x := rfl
@[simp] theorem State.setIrqPending_y (s : State) (v : Bool) : (s.setIrqPending v).y = s.y := rfl
@[simp] theorem State.setIrqPending_sp (s : State) (v : Bool) : (s.setIrqPending v).sp = s.sp := rfl
@[simp] theorem State.setIrqPending_pc (s : State) (v : Bool) : (s.setIrqPending v).pc = s.pc := rfl
@[simp] theorem State.setIrqPending_flags (s : State) (v : Bool) : (s.setIrqPending v).flags = s.flags := rfl
@[simp] theorem State.setIrqPending_nmiPending (s : State) (v : Bool) : (s.setIrqPending v).nmiPending = s.nmiPending := rfl
@[simp] theorem State.setIrqPending_irqPending (s : State) (v : Bool) : (s.setIrqPending v).irqPending = v := rfl
@[simp] theorem State.setIrqPending_cycles (s : State) (v : Bool) : (s.setIrqPending v).cycles = s.cycles := rfl
@[simp] theorem State.setIrqPending_ram (s : State) (v : Bool) : (s.setIrqPending v).ram = s.ram := rfl
@[simp] theorem State.setIrqPending_fault (s : State) (v : Bool) : (s.setIrqPending v).fault = s.fault := rfl
@[simp] theorem State.setIrqPending_mapper (s : State) (v : Bool) : (s.setIrqPending v).mapper = s.mapper := rfl
@[simp] theorem State.setIrqPending_ioLog (s : State) (v : Bool) : (s.setIrqPending v).ioLog = s.ioLog := rfl
@[simp] theorem State.setIrqPending_draws (s : State) (v : Bool) : (s.setIrqPending v).draws = s.draws := rfl
@[simp] theorem State.setIrqPending_ramDraw (s : State) (v : Bool) : (s.setIrqPending v).ramDraw = s.ramDraw := rfl
@[simp] theorem State.setIrqPending_undocExecuted (s : State) (v : Bool) : (s.setIrqPending v).undocExecuted = s.undocExecuted := rfl

@[simp] theorem State.addCycles_a (s : State) (v : Nat) : (s.addCycles v).a = s.a := rfl
@[simp] theorem State.addCycles_x (s : State) (v : Nat) : (s.addCycles v).x = s.x := rfl
@[simp] theorem State.addCycles_y (s : State) (v : Nat) : (s.addCycles v).y = s.y := rfl
@[simp] theorem State.addCycles_sp (s : State) (v : Nat) : (s.addCycles v).sp = s.sp := rfl
@[simp] theorem State.addCycles_pc (s : State) (v : Nat) : (s.addCycles v).pc = s.pc := rfl
@[simp] theorem State.addCycles_flags (s : State) (v : Nat) : (s.addCycles v).flags = s.flags := rfl
@[simp] theorem State.addCycles_nmiPending (s : State) (v : Nat) : (s.addCycles v).nmiPending = s.nmiPending := rfl
@[simp] theorem State.addCycles_irqPending (s : State) (v : Nat) : (s.addCycles v).irqPending = s.irqPending := rfl
@[simp] theorem State.addCycles_cycles (s : State) (v : Nat) : (s.addCycles v).cycles = s.cycles + v := rfl
@[simp] theorem State.addCycles_ram (s : State) (v : Nat) : (s.addCycles v).ram = s.ram := rfl
@[simp] theorem State.addCycles_fault (s : State) (v : Nat) : (s.addCycles v).fault = s.fault := rfl
@[simp] theorem State.addCycles_mapper (s : State) (v : Nat) : (s.addCycles v).mapper = s.mapper := rfl
@[simp] theorem State.addCycles_ioLog (s : State) (v : Nat) : (s.addCycles v).ioLog = s.ioLog := rfl
@[simp] theorem State.addCycles_draws (s : State) (v : Nat) : (s.addCycles v).draws = s.draws := rfl
@[simp] theorem State.addCycles_ramDraw (s : State) (v : Nat) : (s.addCycles v).ramDraw = s.ramDraw := rfl
@[simp] theorem State.addCycles_undocExecuted (s : State) (v : Nat) : (s.addCycles v).undocExecuted = s.undocExecuted := rfl

@[simp] theorem State.setRam_a (s : State) (v : Memory) : (s.setRam v).a = s.a := rfl
@[simp] theorem State.setRam_x (s : State) (v : Memory) : (s.setRam v).x = s.x := rfl
@[simp] theorem State.setRam_y (s : State) (v : Memory) : (s.setRam v).y = s.y := rfl
@[simp] theorem State.setRam_sp (s : State) (v : Memory) : (s.setRam v).sp = s.sp := rfl
@[simp] theorem State.setRam_pc (s : State) (v : Memory) : (s.setRam v).pc = s.pc := rfl
@[simp] theorem State.setRam_flags (s : State) (v : Memory) : (s.setRam v).flags = s.flags := rfl
@[simp] theorem State.setRam_nmiPending (s : State) (v : Memory) : (s.setRam v).nmiPending = s.nmiPending := rfl
@[simp] theorem State.setRam_irqPending (s : State) (v : Memory) : (s.setRam v).irqPending = s.irqPending := rfl
@[simp] theorem State.setRam_cycles (s : State) (v : Memory) : (s.setRam v).cycles = s.cycles := rfl
@[simp] theorem State.setRam_ram (s : State) (v : Memory) : (s.setRam v).ram = v := rfl
@[simp] theorem State.setRam_fault (s : State) (v : Memory) : (s.setRam v).fault = s.fault := rfl
@[simp] theorem State.setRam_mapper (s : State) (v : Memory) : (s.setRam v).mapper = s.mapper := rfl
@[simp] theorem State.setRam_ioLog (s : State) (v : Memory) : (s.setRam v).ioLog = s.ioLog := rfl
@[simp] theorem State.setRam_draws (s : State) (v : Memory) : (s.setRam v).draws = s.draws := rfl
@[simp] theorem State.setRam_ramDraw (s : State) (v : Memory) : (s.setRam v).ramDraw = s.ramDraw := rfl
@[simp] theorem State.setRam_undocExecuted (s : State) (v : Memory) : (s.setRam v).undocExecuted = s.undocExecuted := rfl

@[simp] theorem State.setFault_a (s : State) (v : Option Word) : (s.setFault v).a = s.a := rfl
@[simp] theorem State.setFault_x (s : State) (v : Option Word) : (s.setFault v).x = s.x := rfl
@[simp] theorem State.setFault_y (s : State) (v : Option Word) : (s.setFault v).y = s.y := rfl
@[simp] theorem State.setFault_sp (s : State) (v : Option Word) : (s.setFault v).sp = s.sp := rfl
@[simp] theorem State.setFault_pc (s : State) (v : Option Word) : (s.setFault v).pc = s.pc := rfl
@[simp] theorem State.setFault_flags (s : State) (v : Option Word) : (s.setFault v).flags = s.flags := rfl
@[simp] theorem State.setFault_nmiPending (s : State) (v : Option Word) : (s.setFault v).nmiPending = s.nmiPending := rfl
@[simp] theorem State.setFault_irqPending (s : State) (v : Option Word) : (s.setFault v).irqPending = s.irqPending := rfl
@[simp] theorem State.setFault_cycles (s : State) (v : Option Word) : (s.setFault v).cycles = s.cycles := rfl
@[simp] theorem State.setFault_ram (s : State) (v : Option Word) : (s.setFault v).ram = s.ram := rfl
@[simp] theorem State.setFault_fault (s : State) (v : Option Word) : (s.setFault v).fault = v := rfl
@[simp] theorem State.setFault_mapper (s : State) (v : Option Word) : (s.setFault v).mapper = s.mapper := rfl
@[simp] theorem State.setFault_ioLog (s : State) (v : Option Word) : (s.setFault v).ioLog = s.ioLog := rfl
@[simp] theorem State.setFault_draws (s : State) (v : Option Word) : (s.setFault v).draws = s.draws := rfl
@[simp] theorem State.setFault_ramDraw (s : State) (v : Option Word) : (s.setFault v).ramDraw = s.ramDraw := rfl
@[simp] theorem State.setFault_undocExecuted (s : State) (v : Option Word) : (s.setFault v).undocExecuted = s.undocExecuted := rfl

@[simp] theorem State.setMapper_a (s : State) (v : Mapper) : (s.setMapper v).a = s.a := rfl
@[simp] theorem State.setMapper_x (s : State) (v : Mapper) : (s.setMapper v).x = s.x := rfl
@[simp] theorem State.setMapper_y (s : State) (v : Mapper) : (s.setMapper v).y = s.y := rfl
@[simp] theorem State.setMapper_sp (s : State) (v : Mapper) : (s.setMapper v).sp = s.sp := rfl
@[simp] theorem State.setMapper_pc (s : State) (v : Mapper) : (s.setMapper v).pc = s.pc := rfl
@[simp] theorem State.setMapper_flags (s : State) (v : Mapper) : (s.setMapper v).flags = s.flags := rfl
@[simp] theorem State.setMapper_nmiPending (s : State) (v : Mapper) : (s.setMapper v).nmiPending = s.nmiPending := rfl
@[simp] theorem State.setMapper_irqPending (s : State) (v : Mapper) : (s.setMapper v).irqPending = s.irqPending := rfl
@[simp] theorem State.setMapper_cycles (s : State) (v : Mapper) : (s.setMapper v).cycles = s.cycles := rfl
@[simp] theorem State.setMapper_ram (s : State) (v : Mapper) : (s.setMapper v).ram = s.ram := rfl
@[simp] theorem State.setMapper_fault (s : State) (v : Mapper) : (s.setMapper v).fault = s.fault := rfl
@[simp] theorem State.setMapper_mapper (s : State) (v : Mapper) : (s.setMapper v).mapper = v := rfl
@[simp] theorem State.setMapper_ioLog (s : State) (v : Mapper) : (s.setMapper v).ioLog = s.ioLog := rfl
@[simp] theorem State.setMapper_draws (s : State) (v : Mapper) : (s.setMapper v).draws = s.draws := rfl
@[simp] theorem State.setMapper_ramDraw (s : State) (v : Mapper) : (s.setMapper v).ramDraw = s.ramDraw := rfl
@[simp] theorem State.setMapper_undocExecuted (s : State) (v : Mapper) : (s.setMapper v).undocExecuted = s.undocExecuted := rfl

@[simp] theorem State.logIo_a (s : State) (v : IoEvent) : (s.logIo v).a = s.a := rfl
@[simp] theorem State.logIo_x (s : State) (v : IoEvent) : (s.logIo v).x = s.x := rfl
@[simp] theorem State.logIo_y (s : State) (v : IoEvent) : (s.logIo v).y = s.y := rfl
@[simp] theorem State.logIo_sp (s : State) (v : IoEvent) : (s.logIo v).sp = s.sp := rfl
@[simp] theorem State.logIo_pc (s : State) (v : IoEvent) : (s.logIo v).pc = s.pc := rfl
@[simp] theorem State.logIo_flags (s : State) (v : IoEvent) : (s.logIo v).flags = s.flags := rfl
@[simp] theorem State.logIo_nmiPending (s : State) (v : IoEvent) : (s.logIo v).nmiPending = s.nmiPending := rfl
@[simp] theorem State.logIo_irqPending (s : State) (v : IoEvent) : (s.logIo v).irqPending = s.irqPending := rfl
@[simp] theorem State.logIo_cycles (s : State) (v : IoEvent) : (s.logIo v).cycles = s.cycles := rfl
@[simp] theorem State.logIo_ram (s : State) (v : IoEvent) : (s.logIo v).ram = s.ram := rfl
@[simp] theorem State.logIo_fault (s : State) (v : IoEvent) : (s.logIo v).fault = s.fault := rfl
@[simp] theorem State.logIo_mapper (s : State) (v : IoEvent) : (s.logIo v).mapper = s.mapper := rfl
@[simp] theorem State.logIo_ioLog (s : State) (v : IoEvent) : (s.logIo v).ioLog = v :: s.ioLog := rfl
@[simp] theorem State.logIo_draws (s : State) (v : IoEvent) : (s.logIo v).draws = s.draws := rfl
@[simp] theorem State.logIo_ramDraw (s : State) (v : IoEvent) : (s.logIo v).ramDraw = s.ramDraw := rfl
@[simp] theorem State.logIo_undocExecuted (s : State) (v : IoEvent) : (s.logIo v).undocExecuted = s.undocExecuted := rfl

@[simp] theorem State.countDraw_a (s : State) : s.countDraw.a = s.a := rfl
@[simp] theorem State.countDraw_x (s : State) : s.countDraw.x = s.x := rfl
@[simp] theorem State.countDraw_y (s : State) : s.countDraw.y = s.y := rfl
@[simp] theorem State.countDraw_sp (s : State) : s.countDraw.sp = s.sp := rfl
@[simp] theorem State.countDraw_pc (s : State) : s.countDraw.pc = s.pc := rfl
@[simp] theorem State.countDraw_flags (s : State) : s.countDraw.flags = s.flags := rfl
@[simp] theorem State.countDraw_nmiPending (s : State) : s.countDraw.nmiPending = s.nmiPending := rfl
@[simp] theorem State.countDraw_irqPending (s : State) : s.countDraw.irqPending = s.irqPending := rfl
@[simp] theorem State.countDraw_cycles (s : State) : s.countDraw.cycles = s.cycles := rfl
@[simp] theorem State.countDraw_ram (s : State) : s.countDraw.ram = s.ram := rfl
@[simp] theorem State.countDraw_fault (s : State) : s.countDraw.fault = s.fault := rfl
@[simp] theorem State.countDraw_mapper (s : State) : s.countDraw.mapper = s.mapper := rfl
@[simp] theorem State.countDraw_ioLog (s : State) : s.countDraw.ioLog = s.ioLog := rfl
@[simp] theorem State.countDraw_draws (s : State) : s.countDraw.draws = s.draws + 1 := rfl
@[simp] theorem State.countDraw_ramDraw (s : State) : s.countDraw.ramDraw = s.ramDraw := rfl
@[simp] theorem State.countDraw_undocExecuted (s : State) : s.countDraw.undocExecuted = s.undocExecuted := rfl

@[simp] theorem State.setRamDraw_a (s : State) (v : Nat) : (s.setRamDraw v).a = s.a := rfl
@[simp] theorem State.setRamDraw_x (s : State) (v : Nat) : (s.setRamDraw v).x = s.x := rfl
@[simp] theorem State.setRamDraw_y (s : State) (v : Nat) : (s.setRamDraw v).y = s.y := rfl
@[simp] theorem State.setRamDraw_sp (s : State) (v : Nat) : (s.setRamDraw v).sp = s.sp := rfl
@[simp] theorem State.setRamDraw_pc (s : State) (v : Nat) : (s.setRamDraw v).pc = s.pc := rfl
@[simp] theorem State.setRamDraw_flags (s : State) (v : Nat) : (s.setRamDraw v).flags = s.flags := rfl
@[simp] theorem State.setRamDraw_nmiPending (s : State) (v : Nat) : (s.setRamDraw v).nmiPending = s.nmiPending := rfl
@[simp] theorem State.setRamDraw_irqPending (s : State) (v : Nat) : (s.setRamDraw v).irqPending = s.irqPending := rfl
@[simp] theorem State.setRamDraw_cycles (s : State) (v : Nat) : (s.setRamDraw v).cycles = s.cycles := rfl
@[simp] theorem State.setRamDraw_ram (s : State) (v : Nat) : (s.setRamDraw v).ram = s.ram := rfl
@[simp] theorem State.setRamDraw_fault (s : State) (v : Nat) : (s.setRamDraw v).fault = s.fault := rfl
@[simp] theorem State.setRamDraw_mapper (s : State) (v : Nat) : (s.setRamDraw v).mapper = s.mapper := rfl
@[simp] theorem State.setRamDraw_ioLog (s : State) (v : Nat) : (s.setRamDraw v).ioLog = s.ioLog := rfl
@[simp] theorem State.setRamDraw_draws (s : State) (v : Nat) : (s.setRamDraw v).draws = s.draws := rfl
@[simp] theorem State.setRamDraw_ramDraw (s : State) (v : Nat) : (s.setRamDraw v).ramDraw = v := rfl
@[simp] theorem State.setRamDraw_undocExecuted (s : State) (v : Nat) : (s.setRamDraw v).undocExecuted = s.undocExecuted := rfl

@[simp] theorem State.markUndoc_a (s : State) : s.markUndoc.a = s.a := rfl
@[simp] theorem State.markUndoc_x (s : State) : s.markUndoc.x = s.x := rfl
@[simp] theorem State.markUndoc_y (s : State) : s.markUndoc.y = s.y := rfl
@[simp] theorem State.markUndoc_sp (s : State) : s.markUndoc.sp = s.sp := rfl
@[simp] theorem State.markUndoc_pc (s : State) : s.markUndoc.pc = s.pc := rfl
@[simp] theorem State.markUndoc_flags (s : State) : s.markUndoc.flags = s.flags := rfl
@[simp] theorem State.markUndoc_nmiPending (s : State) : s.markUndoc.nmiPending = s.nmiPending := rfl
@[simp] theorem State.markUndoc_irqPending (s : State) : s.markUndoc.irqPending = s.irqPending := rfl
@[simp] theorem State.markUndoc_cycles (s : State) : s.markUndoc.cycles = s.cycles := rfl
@[simp] theorem State.markUndoc_ram (s : State) : s.markUndoc.ram = s.ram := rfl
@[simp] theorem State.markUndoc_fault (s : State) : s.markUndoc.fault = s.fault := rfl
@[simp] theorem State.markUndoc_mapper (s : State) : s.markUndoc.mapper = s.mapper := rfl
@[simp] theorem State.markUndoc_ioLog (s : State) : s.markUndoc.ioLog = s.ioLog := rfl
@[simp] theorem State.markUndoc_draws (s : State) : s.markUndoc.draws = s.draws := rfl
@[simp] theorem State.markUndoc_ramDraw (s : State) : s.markUndoc.ramDraw = s.ramDraw := rfl
@[simp] theorem State.markUndoc_undocExecuted (s : State) : s.markUndoc.undocExecuted = true := rfl

@[simp] theorem State.setZN_a (s : State) (v : Byte) : (s.setZN v).a = s.a := rfl
@[simp] theorem State.setZN_x (s : State) (v : Byte) : (s.setZN v).x = s.x := rfl
@[simp] theorem State.setZN_y (s : State) (v : Byte) : (s.setZN v).y = s.y := rfl
@[simp] theorem State.setZN_sp (s : State) (v : Byte) : (s.setZN v).sp = s.sp := rfl
@[simp] theorem State.setZN_pc (s : State) (v : Byte) : (s.setZN v).pc = s.pc := rfl
@[simp] theorem State.setZN_flags (s : State) (v : Byte) : (s.setZN v).flags = s.flags.setZN v := rfl
@[simp] theorem State.setZN_nmiPending (s : State) (v : Byte) : (s.setZN v).nmiPending = s.nmiPending := rfl
@[simp] theorem State.setZN_irqPending (s : State) (v : Byte) : (s.setZN v).irqPending = s.irqPending := rfl
@[simp] theorem State.setZN_cycles (s : State) (v : Byte) : (s.setZN v).cycles = s.cycles := rfl
@[simp] theorem State.setZN_ram (s : State) (v : Byte) : (s.setZN v).ram = s.ram := rfl
@[simp] theorem State.setZN_fault (s : State) (v : Byte) : (s.setZN v).fault = s.fault := rfl
@[simp] theorem State.setZN_mapper (s : State) (v : Byte) : (s.setZN v).mapper = s.mapper := rfl
@[simp] theorem State.setZN_ioLog (s : State) (v : Byte) : (s.setZN v).ioLog = s.ioLog := rfl
@[simp] theorem State.setZN_draws (s : State) (v : Byte) : (s.setZN v).draws = s.draws := rfl
@[simp] theorem State.setZN_ramDraw (s : State) (v : Byte) : (s.setZN v).ramDraw = s.ramDraw := rfl
@[simp] theorem State.setZN_undocExecuted (s : State) (v : Byte) : (s.setZN v).undocExecuted = s.undocExecuted := rfl

@[simp] theorem State.setInterruptDisable_a (s : State) (v : Bool) : (s.setInterruptDisable v).a = s.a := rfl
@[simp] theorem State.setInterruptDisable_x (s : State) (v : Bool) : (s.setInterruptDisable v).x = s.x := rfl
@[simp] theorem State.setInterruptDisable_y (s : State) (v : Bool) : (s.setInterruptDisable v).y = s.y := rfl
@[simp] theorem State.setInterruptDisable_sp (s : State) (v : Bool) : (s.setInterruptDisable v).sp = s.sp := rfl
@[simp] theorem State.setInterruptDisable_pc (s : State) (v : Bool) : (s.setInterruptDisable v).pc = s.pc := rfl
@[simp] theorem State.setInterruptDisable_flags (s : State) (v : Bool) : (s.setInterruptDisable v).flags = { s.flags with i := v } := rfl
@[simp] theorem State.setInterruptDisable_nmiPending (s : State) (v : Bool) : (s.setInterruptDisable v).nmiPending = s.nmiPending := rfl
@[simp] theorem State.setInterruptDisable_irqPending (s : State) (v : Bool) : (s.setInterruptDisable v).irqPending = s.irqPending := rfl
@[simp] theorem State.setInterruptDisable_cycles (s : State) (v : Bool) : (s.setInterruptDisable v).cycles = s.cycles := rfl
@[simp] theorem State.setInterruptDisable_ram (s : State) (v : Bool) : (s.setInterruptDisable v).ram = s.ram := rfl
@[simp] theorem State.setInterruptDisable_fault (s : State) (v : Bool) : (s.setInterruptDisable v).fault = s.fault := rfl
@[simp] theorem State.setInterruptDisable_mapper (s : State) (v : Bool) : (s.setInterruptDisable v).mapper = s.mapper := rfl
@[simp] theorem State.setInterruptDisable_ioLog (s : State) (v : Bool) : (s.setInterruptDisable v).ioLog = s.ioLog := rfl
@[simp] theorem State.setInterruptDisable_draws (s : State) (v : Bool) : (s.setInterruptDisable v).draws = s.draws := rfl
@[simp] theorem State.setInterruptDisable_ramDraw (s : State) (v : Bool) : (s.setInterruptDisable v).ramDraw = s.ramDraw := rfl
@[simp] theorem State.setInterruptDisable_undocExecuted (s : State) (v : Bool) : (s.setInterruptDisable v).undocExecuted = s.undocExecuted := rfl

end Sys2Proof.Machine
end

