-- ==== Sys2Proof/Laws/Bus.lean ====
section
/-! SUPPORT. What the bus, the stack and the exception entry can do: one lemma per operation, cited instead of unfolded. -/

namespace Sys2Proof.Machine

/-! ### Sequencing accesses -/

@[simp] theorem Access.bind_done {α β : Type} (v : α) (s : State) (k : α → State → Access β) :
    (Access.done v s).bind k = k v s := rfl

@[simp] theorem Access.bind_faulted {α β : Type} (s : State) (k : α → State → Access β) :
    (Access.faulted s).bind k = .faulted s := rfl

@[simp] theorem Access.andThen_done {α : Type} (v : α) (s : State) (k : α → State → Result) :
    (Access.done v s).andThen k = k v s := rfl

@[simp] theorem Access.andThen_faulted {α : Type} (s : State) (k : α → State → Result) :
    (Access.faulted s : Access α).andThen k = .next s := rfl

theorem Access.bind_eq_done {α β : Type} {r : Access α} {k : α → State → Access β} {w : β} {t : State} :
    r.bind k = .done w t ↔ ∃ v s, r = .done v s ∧ k v s = .done w t := by
  cases r <;> simp

theorem Access.bind_eq_faulted {α β : Type} {r : Access α} {k : α → State → Access β} {t : State} :
    r.bind k = .faulted t ↔ r = .faulted t ∨ ∃ v s, r = .done v s ∧ k v s = .faulted t := by
  cases r <;> simp

theorem Access.andThen_eq_next {α : Type} {r : Access α} {k : α → State → Result} {t : State} :
    r.andThen k = .next t ↔ r = .faulted t ∨ ∃ v s, r = .done v s ∧ k v s = .next t := by
  cases r <;> simp

/-! ### The handlers -/

theorem handlerOf_ram_iff {a : Word} : handlerOf a = .ram ↔ a.toNat < 0x2000 := by
  unfold handlerOf
  split
  · simp [*]
  · split <;> simp_all

theorem handlerOf_mapper_iff {a : Word} : handlerOf a = .mapper ↔ 0x4020 ≤ a.toNat := by
  unfold handlerOf
  split
  · simp; omega
  · split <;> simp_all

theorem handlerOf_io_iff {a : Word} : handlerOf a = .io ↔ 0x2000 ≤ a.toNat ∧ a.toNat < 0x4020 := by
  unfold handlerOf
  split
  · simp; omega
  · split
    · simp; omega
    · simp; omega

@[simp] theorem zext16_toNat (v : Byte) : (zext16 v).toNat = v.toNat := by
  have := v.isLt
  unfold zext16
  rw [BitVec.toNat_setWidth]
  omega

/-- The stack byte SP designates is at 0x0100 plus SP (R34). -/
theorem stackAddress_toNat (sp : Byte) : (stackAddress sp).toNat = 0x100 + sp.toNat := by
  have h : stackAddress sp = 0x100 + zext16 sp := by
    revert sp; decide
  have := sp.isLt
  have h1 : (0x100 : Word).toNat = 0x100 := rfl
  rw [h, BitVec.toNat_add, zext16_toNat, h1]
  omega

@[simp] theorem handlerOf_zext16 (v : Byte) : handlerOf (zext16 v) = .ram := by
  have := v.isLt
  rw [handlerOf_ram_iff, zext16_toNat]
  omega

@[simp] theorem handlerOf_stackAddress (sp : Byte) : handlerOf (stackAddress sp) = .ram := by
  have := sp.isLt
  rw [handlerOf_ram_iff, stackAddress_toNat]
  omega

@[simp] theorem ramCell_stackAddress (sp : Byte) : ramCell (stackAddress sp) = 0x100 + sp.toNat := by
  have := sp.isLt
  rw [ramCell, stackAddress_toNat]
  omega

theorem ramCell_lt (a : Word) : ramCell a < 0x800 := Nat.mod_lt _ (by omega)

/-- The second address of a page-wrapped read from the zero page is in the zero page (R89). -/
theorem nextInPage_zext16 (v : Byte) : nextInPage (zext16 v) = zext16 (v + 1) := by
  revert v; decide

/-- The next byte of the same page: the high byte stays, the low byte steps modulo 256 (R89). -/
theorem nextInPage_eq (p : Word) : nextInPage p = wordOf (highByte p) (lowByte p + 1) := by
  have low : lowByte p + 1 = (p + 1).setWidth 8 := by
    rw [BitVec.setWidth_add _ _ (by decide), lowByte]; congr 1
  rw [low]
  unfold nextInPage wordOf highByte zext16
  generalize p + 1 = q
  ext i hi
  rcases i with _|_|_|_|_|_|_|_|_|_|_|_|_|_|_|_|i <;> first | omega | simp

/-! ### Internal RAM -/

theorem State.ramRead_congr {s t : State} (h : t.ram = s.ram) (hd : t.ramDraw = s.ramDraw) (a : Word) :
    t.ramRead a = s.ramRead a := by
  simp [State.ramRead, h, hd]

/-- A RAM read after a RAM write (R83): the byte written for every address of the same cell, else the old byte. -/
theorem State.ramRead_ramWrite (s : State) (a b : Word) (v : Byte) :
    (s.ramWrite a v).ramRead b = if ramCell a = ramCell b then v else s.ramRead b := by
  unfold State.ramWrite State.ramRead
  split
  · rename_i h
    simp [h, ramBlank, Memory.lookup_write_none_self]
  · rename_i h
    simp [Memory.lookup_write_of_ne h]

theorem State.ramWrite_eq (s : State) (a : Word) (v : Byte) :
    s.ramWrite a v = s.setRam (s.ram.write ramBlank (ramCell a) v) := rfl

/-- A RAM write keeps every memory canonical. -/
theorem State.wf_ramWrite {s : State} {a : Word} {v : Byte} (h : s.wf = true) : (s.ramWrite a v).wf = true := by
  simp only [State.wf, Bool.and_eq_true] at h ⊢
  exact ⟨Memory.wf_write h.1 (ramCell_lt a), h.2⟩

/-! ### Byte access, by handler (R81, R82) -/

theorem State.memRead_ram {s : State} {a : Word} (h : handlerOf a = .ram) : s.memRead a = .done (s.ramRead a) s := by
  simp [State.memRead, h]

theorem State.memRead_io {s : State} {a : Word} (h : handlerOf a = .io) :
    s.memRead a = .done (Config.ioRead s.draws a) ((s.logIo (.read a (Config.ioRead s.draws a))).countDraw) := by
  simp [State.memRead, h, State.ioRead]

theorem State.memRead_mapper {s : State} {a : Word} {v : Byte} (h : handlerOf a = .mapper)
    (hv : s.mapper.answer a = some v) : s.memRead a = .done v (s.setMapper (s.mapper.afterRead a)) := by
  simp [State.memRead, h, hv]

theorem State.memRead_unmapped {s : State} {a : Word} (h : handlerOf a = .mapper) (hv : s.mapper.answer a = none) :
    s.memRead a = .faulted ((s.setMapper (s.mapper.afterRead a)).raiseFault a) := by
  simp [State.memRead, h, hv]

theorem State.memWrite_ram {s : State} {a : Word} {v : Byte} (h : handlerOf a = .ram) :
    s.memWrite a v = s.ramWrite a v := by
  simp [State.memWrite, h]

theorem State.memWrite_io {s : State} {a : Word} {v : Byte} (h : handlerOf a = .io) :
    s.memWrite a v = s.logIo (.write a v) := by
  simp [State.memWrite, h, State.ioWrite]

theorem State.memWrite_mapper {s : State} {a : Word} {v : Byte} (h : handlerOf a = .mapper) :
    s.memWrite a v = s.setMapper (s.mapper.afterWrite a v) := by
  simp [State.memWrite, h]

/-- Where memory stands behind an address and the mapper is the NROM-style one, a read gives that byte and changes
nothing. -/
theorem State.memRead_byteAt {s : State} {a : Word} {v : Byte} (hb : s.byteAt a = some v)
    (hm : handlerOf a = .mapper → ∃ r, s.mapper = .nrom r) : s.memRead a = .done v s := by
  unfold State.byteAt at hb
  split at hb
  · rename_i h
    rw [State.memRead_ram h]
    simpa using hb
  · simp at hb
  · rename_i h
    obtain ⟨r, hr⟩ := hm h
    rw [State.memRead_mapper h hb, hr]
    simp [Mapper.afterRead, State.setMapper, ← hr]

/-! ### What a read can change -/

theorem SameCore.refl (s : State) : SameCore s s := rfl

theorem SameCore.trans {s t u : State} (h : SameCore s t) (h' : SameCore t u) : SameCore s u := by
  unfold SameCore at *
  rw [h', h]

/-! The fields that a state of the same core shares. -/

theorem SameCore.a {s t : State} (h : SameCore s t) : t.a = s.a := by rw [h]
theorem SameCore.x {s t : State} (h : SameCore s t) : t.x = s.x := by rw [h]
theorem SameCore.y {s t : State} (h : SameCore s t) : t.y = s.y := by rw [h]
theorem SameCore.sp {s t : State} (h : SameCore s t) : t.sp = s.sp := by rw [h]
theorem SameCore.pc {s t : State} (h : SameCore s t) : t.pc = s.pc := by rw [h]
theorem SameCore.flags {s t : State} (h : SameCore s t) : t.flags = s.flags := by rw [h]
theorem SameCore.nmiPending {s t : State} (h : SameCore s t) : t.nmiPending = s.nmiPending := by rw [h]
theorem SameCore.irqPending {s t : State} (h : SameCore s t) : t.irqPending = s.irqPending := by rw [h]
theorem SameCore.cycles {s t : State} (h : SameCore s t) : t.cycles = s.cycles := by rw [h]
theorem SameCore.ram {s t : State} (h : SameCore s t) : t.ram = s.ram := by rw [h]
theorem SameCore.fault {s t : State} (h : SameCore s t) : t.fault = s.fault := by rw [h]
theorem SameCore.ramDraw {s t : State} (h : SameCore s t) : t.ramDraw = s.ramDraw := by rw [h]
theorem SameCore.undocExecuted {s t : State} (h : SameCore s t) : t.undocExecuted = s.undocExecuted := by rw [h]

theorem sameCore_setMapper (s : State) (m : Mapper) : SameCore s (s.setMapper m) := rfl

theorem sameCore_logIo_countDraw (s : State) (e : IoEvent) : SameCore s ((s.logIo e).countDraw) := rfl

/-- Everything a byte read can do: it answers a byte in a state that differs at most in what the ports were asked, or it
ends in the fault of its own address, raised in such a state. -/
theorem State.memRead_cases (s : State) (a : Word) :
    (∃ v t, s.memRead a = .done v t ∧ SameCore s t) ∨
    (∃ t, s.memRead a = .faulted (t.raiseFault a) ∧ SameCore s t) := by
  cases h : handlerOf a with
  | ram => exact .inl ⟨_, _, State.memRead_ram h, SameCore.refl s⟩
  | io => exact .inl ⟨_, _, State.memRead_io h, sameCore_logIo_countDraw s _⟩
  | mapper =>
    cases hv : s.mapper.answer a with
    | some v => exact .inl ⟨_, _, State.memRead_mapper h hv, sameCore_setMapper s _⟩
    | none => exact .inr ⟨_, State.memRead_unmapped h hv, sameCore_setMapper s _⟩

/-- What an access may do that only reads: it answers in a state of the same core, or it ends in a fault raised in such
a state. -/
def Access.OnlyReads {α : Type} (s : State) (r : Access α) : Prop :=
  match r with
  | .done _ t => SameCore s t
  | .faulted u => ∃ t a, SameCore s t ∧ u = t.raiseFault a

theorem State.memRead_onlyReads (s : State) (a : Word) : (s.memRead a).OnlyReads s := by
  rcases s.memRead_cases a with ⟨v, t, h, hs⟩ | ⟨t, h, hs⟩
  · rw [h]; exact hs
  · rw [h]; exact ⟨t, a, hs, rfl⟩

theorem Access.OnlyReads.bind {α β : Type} {s : State} {r : Access α} {k : α → State → Access β}
    (hr : r.OnlyReads s) (hk : ∀ v t, r = .done v t → (k v t).OnlyReads t) : (r.bind k).OnlyReads s := by
  cases r with
  | faulted u => exact hr
  | done v t =>
    have h := hk v t rfl
    simp only [Access.bind_done]
    generalize k v t = q at h ⊢
    cases q with
    | done w u => exact SameCore.trans hr h
    | faulted u =>
      obtain ⟨t', a, ht, hu⟩ := h
      exact ⟨t', a, SameCore.trans hr ht, hu⟩

theorem State.readPair_onlyReads (s : State) (lo hi : Word) : (s.readPair lo hi).OnlyReads s :=
  (s.memRead_onlyReads lo).bind fun _ t _ => (t.memRead_onlyReads hi).bind fun _ u _ => SameCore.refl u

theorem State.readWord_onlyReads (s : State) (a : Word) : (s.readWord a).OnlyReads s := s.readPair_onlyReads _ _

theorem State.readWordPW_onlyReads (s : State) (a : Word) : (s.readWordPW a).OnlyReads s := s.readPair_onlyReads _ _

/-- A word read of two RAM bytes changes nothing. -/
theorem State.readPair_ram {s : State} {lo hi : Word} (hl : handlerOf lo = .ram) (hh : handlerOf hi = .ram) :
    s.readPair lo hi = .done (wordOf (s.ramRead hi) (s.ramRead lo)) s := by
  simp [State.readPair, State.memRead_ram hl, State.memRead_ram hh]

/-- A pointer read in the zero page never faults and changes nothing (R89, R150, R151). -/
theorem State.readWordPW_zeroPage (s : State) (p : Byte) :
    s.readWordPW (zext16 p) = .done (wordOf (s.ramRead (zext16 (p + 1))) (s.ramRead (zext16 p))) s := by
  rw [State.readWordPW, nextInPage_zext16, State.readPair_ram (by simp) (by simp)]

@[simp] theorem State.raiseFault_fault (s : State) (a : Word) : (s.raiseFault a).fault = some (s.fault.getD a) := rfl
@[simp] theorem State.raiseFault_mapper (s : State) (a : Word) : (s.raiseFault a).mapper = s.mapper := rfl
@[simp] theorem State.raiseFault_ram (s : State) (a : Word) : (s.raiseFault a).ram = [] := rfl
@[simp] theorem State.raiseFault_cycles (s : State) (a : Word) :
    (s.raiseFault a).cycles = s.cycles + Config.faultCycles s.draws := rfl

/-! ### What a write can change -/

/-- Everything a byte write can do: it changes one RAM cell, the mapper or the I/O log, by the address. -/
theorem State.memWrite_cases (s : State) (a : Word) (v : Byte) :
    (handlerOf a = .ram ∧ s.memWrite a v = s.ramWrite a v) ∨
    (handlerOf a = .io ∧ s.memWrite a v = s.logIo (.write a v)) ∨
    (handlerOf a = .mapper ∧ s.memWrite a v = s.setMapper (s.mapper.afterWrite a v)) := by
  cases h : handlerOf a with
  | ram => exact .inl ⟨rfl, State.memWrite_ram h⟩
  | io => exact .inr (.inl ⟨rfl, State.memWrite_io h⟩)
  | mapper => exact .inr (.inr ⟨rfl, State.memWrite_mapper h⟩)

/-- A write changes nothing but RAM, the mapper and the I/O log. -/
theorem State.memWrite_frame (s : State) (a : Word) (v : Byte) :
    s.memWrite a v = { s with
      ram := (s.memWrite a v).ram, mapper := (s.memWrite a v).mapper, ioLog := (s.memWrite a v).ioLog } := by
  rcases s.memWrite_cases a v with ⟨-, h⟩ | ⟨-, h⟩ | ⟨-, h⟩ <;> rw [h] <;> rfl

@[simp] theorem State.memWrite_a (s : State) (a : Word) (v : Byte) : (s.memWrite a v).a = s.a := by
  rw [State.memWrite_frame]
@[simp] theorem State.memWrite_x (s : State) (a : Word) (v : Byte) : (s.memWrite a v).x = s.x := by
  rw [State.memWrite_frame]
@[simp] theorem State.memWrite_y (s : State) (a : Word) (v : Byte) : (s.memWrite a v).y = s.y := by
  rw [State.memWrite_frame]
@[simp] theorem State.memWrite_sp (s : State) (a : Word) (v : Byte) : (s.memWrite a v).sp = s.sp := by
  rw [State.memWrite_frame]
@[simp] theorem State.memWrite_pc (s : State) (a : Word) (v : Byte) : (s.memWrite a v).pc = s.pc := by
  rw [State.memWrite_frame]
@[simp] theorem State.memWrite_flags (s : State) (a : Word) (v : Byte) : (s.memWrite a v).flags = s.flags := by
  rw [State.memWrite_frame]
@[simp] theorem State.memWrite_nmiPending (s : State) (a : Word) (v : Byte) :
    (s.memWrite a v).nmiPending = s.nmiPending := by
  rw [State.memWrite_frame]
@[simp] theorem State.memWrite_irqPending (s : State) (a : Word) (v : Byte) :
    (s.memWrite a v).irqPending = s.irqPending := by
  rw [State.memWrite_frame]
@[simp] theorem State.memWrite_cycles (s : State) (a : Word) (v : Byte) : (s.memWrite a v).cycles = s.cycles := by
  rw [State.memWrite_frame]
@[simp] theorem State.memWrite_fault (s : State) (a : Word) (v : Byte) : (s.memWrite a v).fault = s.fault := by
  rw [State.memWrite_frame]
@[simp] theorem State.memWrite_draws (s : State) (a : Word) (v : Byte) : (s.memWrite a v).draws = s.draws := by
  rw [State.memWrite_frame]
@[simp] theorem State.memWrite_ramDraw (s : State) (a : Word) (v : Byte) : (s.memWrite a v).ramDraw = s.ramDraw := by
  rw [State.memWrite_frame]
@[simp] theorem State.memWrite_undocExecuted (s : State) (a : Word) (v : Byte) :
    (s.memWrite a v).undocExecuted = s.undocExecuted := by
  rw [State.memWrite_frame]

/-- A write to the cartridge keeps its memories canonical. -/
theorem Mapper.wf_afterWrite {m : Mapper} {a : Word} {v : Byte} (h : m.wf = true) : (m.afterWrite a v).wf = true := by
  cases m with
  | other served => rfl
  | nrom r =>
    simp only [Mapper.wf, Mapper.afterWrite, Nrom.write, Bool.and_eq_true] at h ⊢
    split
    · rename_i hs
      simp only [Nrom.ramSelected, Bool.and_eq_true, decide_eq_true_eq] at hs
      refine ⟨h.1, ?_⟩
      have h2 := h.2
      simp only [hs.2, if_true] at h2 ⊢
      exact Memory.wf_write h2 (by omega)
    · exact h

/-- A byte write keeps every memory canonical. -/
theorem State.wf_memWrite {s : State} {a : Word} {v : Byte} (h : s.wf = true) : (s.memWrite a v).wf = true := by
  rcases s.memWrite_cases a v with ⟨-, e⟩ | ⟨-, e⟩ | ⟨-, e⟩ <;> rw [e]
  · exact State.wf_ramWrite h
  · exact h
  · simp only [State.wf, Bool.and_eq_true] at h ⊢
    exact ⟨h.1, Mapper.wf_afterWrite h.2⟩

theorem Mapper.wf_afterRead {m : Mapper} {a : Word} (h : m.wf = true) : (m.afterRead a).wf = true := by
  cases m <;> exact h

/-- A fault leaves every memory canonical. -/
theorem State.wf_raiseFault {s : State} {a : Word} (h : s.wf = true) : (s.raiseFault a).wf = true := by
  simp only [State.wf, Bool.and_eq_true] at h ⊢
  exact ⟨rfl, h.2⟩

/-- A byte read keeps every memory canonical. -/
theorem State.wf_memRead {s : State} {a : Word} (h : s.wf = true) :
    match s.memRead a with
    | .done _ t => t.wf = true
    | .faulted t => t.wf = true := by
  have hm : (s.setMapper (s.mapper.afterRead a)).wf = true := by
    simp only [State.wf, Bool.and_eq_true] at h ⊢
    exact ⟨h.1, Mapper.wf_afterRead h.2⟩
  cases e : handlerOf a with
  | ram => rw [State.memRead_ram e]; exact h
  | io => rw [State.memRead_io e]; exact h
  | mapper =>
    cases hv : s.mapper.answer a with
    | some v => rw [State.memRead_mapper e hv]; exact hm
    | none => rw [State.memRead_unmapped e hv]; exact State.wf_raiseFault hm

/-- Placing a byte from outside keeps every memory canonical. -/
theorem State.wf_placeByte {s : State} {a : Word} {v : Byte} (h : s.wf = true) : (s.placeByte a v).wf = true := by
  unfold State.placeByte
  split
  · exact State.wf_ramWrite h
  · rename_i r _ hr
    simp only [State.wf, Bool.and_eq_true] at h
    split
    · have h2 := h.2
      simp only [hr, Mapper.wf, Bool.and_eq_true] at h2
      simp only [State.wf, State.setMapper_ram, State.setMapper_mapper, Mapper.wf, Bool.and_eq_true]
      refine ⟨h.1, Memory.wf_write h2.1 ?_, h2.2⟩
      unfold Nrom.prgOffset
      exact Nat.mod_lt _ (by cases r.prgSize <;> decide)
    · simp only [State.wf, State.setMapper_ram, State.setMapper_mapper, Bool.and_eq_true]
      refine ⟨h.1, ?_⟩
      have := Mapper.wf_afterWrite (a := a) (v := v) (hr ▸ h.2)
      exact this
  · exact h

/-- ClearRAM leaves every memory canonical. -/
theorem State.wf_clearRam {s : State} (h : s.wf = true) : s.clearRam.wf = true := by
  simp only [State.wf, Bool.and_eq_true] at h
  simp only [State.wf, State.clearRam, State.setRam_ram, State.setRam_mapper, Bool.and_eq_true]
  exact ⟨Memory.wf_filled, h.2⟩

theorem State.wf_reset : State.reset.wf = true := by decide

/-! ### The stack -/

/-- A push writes one RAM cell of page 1 and moves SP (R95). -/
theorem State.push_eq (s : State) (v : Byte) :
    s.push v = (s.ramWrite (stackAddress s.sp) v).setSp (s.sp - 1) := by
  rw [State.push, State.memWrite_ram (by simp)]

/-- A pull moves SP and reads one RAM cell of page 1; it never faults (R96, R97). -/
theorem State.pull_eq (s : State) :
    s.pull = .done (s.ramRead (stackAddress (s.sp + 1))) (s.setSp (s.sp + 1)) := by
  rw [State.pull, State.setSp_sp, State.memRead_ram (by simp)]
  rfl

theorem State.pushWord_eq (s : State) (w : Word) :
    s.pushWord w = ((s.ramWrite (stackAddress s.sp) (highByte w)).ramWrite (stackAddress (s.sp - 1)) (lowByte w)).setSp
      (s.sp - 2) := by
  have h : s.sp - 1 - 1 = s.sp - 2 := by rw [BitVec.sub_sub]; rfl
  rw [State.pushWord, State.push_eq, State.push_eq]
  simp only [State.setSp_sp, h]
  rfl

theorem State.pullWord_eq (s : State) :
    s.pullWord = .done (wordOf (s.ramRead (stackAddress (s.sp + 2))) (s.ramRead (stackAddress (s.sp + 1))))
      (s.setSp (s.sp + 2)) := by
  have h : s.sp + 1 + 1 = s.sp + 2 := by rw [BitVec.add_assoc]; rfl
  rw [State.pullWord, State.pull_eq]
  simp only [Access.bind_done, State.pull_eq, State.setSp_sp, h]
  rfl

/-- The state of an exception entry before its vector is read: the three bytes of the frame (R508), SP less 3, I set. -/
def State.afterEntryPushes (s : State) (status : Byte) : State :=
  ((((s.ramWrite (stackAddress s.sp) (highByte s.pc)).ramWrite (stackAddress (s.sp - 1)) (lowByte s.pc)).ramWrite
    (stackAddress (s.sp - 2)) status).setSp (s.sp - 3)).setInterruptDisable true

/-- An exception entry is its pushes and then the vector read (R313, R505, R506). -/
theorem State.enterHandler_eq (s : State) (vector : Word) (status : Byte) :
    s.enterHandler vector status =
      ((s.afterEntryPushes status).readWord vector).bind fun target s1 => .done target (s1.setPc target) := by
  have h : s.sp - 2 - 1 = s.sp - 3 := by rw [BitVec.sub_sub]; rfl
  rw [State.enterHandler, State.pushWord_eq, State.push_eq]
  simp only [State.setSp_sp, h]
  rfl

/-- The return from an exception never faults: it reads three RAM bytes (R314). -/
theorem State.returnFromHandler_eq (s : State) :
    s.returnFromHandler =
      (let target := wordOf (s.ramRead (stackAddress (s.sp + 3))) (s.ramRead (stackAddress (s.sp + 2)))
       .done target (((s.setFlags (Flags.ofSr (s.ramRead (stackAddress (s.sp + 1))))).setSp (s.sp + 3)).setPc target)) := by
  have h2 : s.sp + 1 + 1 = s.sp + 2 := by rw [BitVec.add_assoc]; rfl
  have h3 : s.sp + 1 + 2 = s.sp + 3 := by rw [BitVec.add_assoc]; rfl
  rw [State.returnFromHandler, State.pull_eq]
  simp only [Access.bind_done, State.pullWord_eq, State.setFlags_sp, State.setSp_sp, h2, h3]
  rfl

end Sys2Proof.Machine
end

