-- ==== Sys2Proof/Laws/Encoding.lean ====
section
/-! SUPPORT. The small laws of byte order and of the opcode map that encoding and decoding rest on. -/

namespace Sys2Proof

@[simp] theorem highByte_wordOf (hi lo : Byte) : highByte (wordOf hi lo) = hi := by
  apply BitVec.eq_of_getLsbD_eq
  intro i h
  have h1 : 8 + i < 16 := by omega
  simp [highByte, wordOf, zext16, h, h1]

@[simp] theorem lowByte_wordOf (hi lo : Byte) : lowByte (wordOf hi lo) = lo := by
  apply BitVec.eq_of_getLsbD_eq
  intro i h
  have h1 : i < 16 := by omega
  simp [lowByte, wordOf, zext16, h, h1]

/-- A word is its high and its low byte (R9). -/
@[simp] theorem wordOf_high_low (w : Word) : wordOf (highByte w) (lowByte w) = w := by
  apply BitVec.eq_of_getLsbD_eq
  intro i h
  rcases Nat.lt_or_ge i 8 with h8 | h8
  · simp [highByte, lowByte, wordOf, zext16, h, h8]
  · have h9 : ¬ i < 8 := by omega
    have h10 : i - 8 < 8 := by omega
    have h11 : 8 + (i - 8) = i := by omega
    simp [highByte, lowByte, wordOf, zext16, h, h9, h10, h11]

/-- A zero-page address is the word with high byte 0 (R143). -/
theorem wordOf_zero (v : Byte) : wordOf 0 v = zext16 v := by
  revert v; decide

/-- Each of the 105 bytes of R162 is no cell of the opcode map. -/
theorem documented_of_undocumented {b : Byte} (h : b ∈ undocumentedBytes) (op1 op2 : Byte) :
    Instr.documented b op1 op2 = none := by
  revert b
  simp only [undocumentedBytes, List.forall_mem_append, List.forall_mem_cons]
  repeat' (first | exact rfl | apply And.intro | exact List.forall_mem_nil _)

theorem ofBytes_of_undocumented {b : Byte} (h : b ∈ undocumentedBytes) (op1 op2 : Byte) :
    Instr.ofBytes b op1 op2 = .undoc b := by
  rw [Instr.ofBytes, documented_of_undocumented h]
  rfl

end Sys2Proof
end

