-- ==== Sys2Proof/Laws/Flags.lean ====
section
/-! SUPPORT. What each flag computation writes and what it leaves, one lemma per flag, true by definition. -/

namespace Sys2Proof.Machine

@[simp] theorem Flags.setZN_c (v : Byte) (f : Flags) : (f.setZN v).c = f.c := rfl
@[simp] theorem Flags.setZN_z (v : Byte) (f : Flags) : (f.setZN v).z = (v == 0) := rfl
@[simp] theorem Flags.setZN_i (v : Byte) (f : Flags) : (f.setZN v).i = f.i := rfl
@[simp] theorem Flags.setZN_d (v : Byte) (f : Flags) : (f.setZN v).d = f.d := rfl
@[simp] theorem Flags.setZN_b (v : Byte) (f : Flags) : (f.setZN v).b = f.b := rfl
@[simp] theorem Flags.setZN_v (v : Byte) (f : Flags) : (f.setZN v).v = f.v := rfl
@[simp] theorem Flags.setZN_n (v : Byte) (f : Flags) : (f.setZN v).n = v.getLsbD 7 := rfl

@[simp] theorem Flags.afterAdc_i (a m : Byte) (f : Flags) : (f.afterAdc a m).i = f.i := rfl
@[simp] theorem Flags.afterAdc_d (a m : Byte) (f : Flags) : (f.afterAdc a m).d = f.d := rfl
@[simp] theorem Flags.afterAdc_b (a m : Byte) (f : Flags) : (f.afterAdc a m).b = f.b := rfl

@[simp] theorem Flags.afterCompare_i (r m : Byte) (f : Flags) : (f.afterCompare r m).i = f.i := rfl
@[simp] theorem Flags.afterCompare_d (r m : Byte) (f : Flags) : (f.afterCompare r m).d = f.d := rfl
@[simp] theorem Flags.afterCompare_b (r m : Byte) (f : Flags) : (f.afterCompare r m).b = f.b := rfl
@[simp] theorem Flags.afterCompare_v (r m : Byte) (f : Flags) : (f.afterCompare r m).v = f.v := rfl

@[simp] theorem Flags.afterBit_c (a m : Byte) (f : Flags) : (f.afterBit a m).c = f.c := rfl
@[simp] theorem Flags.afterBit_i (a m : Byte) (f : Flags) : (f.afterBit a m).i = f.i := rfl
@[simp] theorem Flags.afterBit_d (a m : Byte) (f : Flags) : (f.afterBit a m).d = f.d := rfl
@[simp] theorem Flags.afterBit_b (a m : Byte) (f : Flags) : (f.afterBit a m).b = f.b := rfl

@[simp] theorem Flags.afterShift_c (o : Bool × Byte) (f : Flags) : (f.afterShift o).c = o.1 := rfl
@[simp] theorem Flags.afterShift_i (o : Bool × Byte) (f : Flags) : (f.afterShift o).i = f.i := rfl
@[simp] theorem Flags.afterShift_d (o : Bool × Byte) (f : Flags) : (f.afterShift o).d = f.d := rfl
@[simp] theorem Flags.afterShift_b (o : Bool × Byte) (f : Flags) : (f.afterShift o).b = f.b := rfl
@[simp] theorem Flags.afterShift_v (o : Bool × Byte) (f : Flags) : (f.afterShift o).v = f.v := rfl

end Sys2Proof.Machine
end

