-- ==== Sys2Proof/Laws/HostInterface.lean ====
section
/-! SUPPORT. The host's operations: the state after reset is what the boot order gives, and each operation keeps every memory
canonical. -/

namespace Sys2Proof.Machine

/-- Clearing an I/O set records one write of 0x00 for each address, in the set's order, and does nothing else. -/
theorem State.clearIo_eq (set : IoSet) (s : State) :
    s.clearIo set = { s with ioLog := (set.addresses.reverse.map fun a => IoEvent.write a 0x00) ++ s.ioLog } := by
  unfold State.clearIo
  induction set.addresses generalizing s with
  | nil => rfl
  | cons a l ih => rw [List.foldl_cons, ih]; simp [State.ioWrite, State.logIo]

/-- PowerUp leaves every memory canonical. -/
theorem State.wf_powerUp {s : State} {p : PowerUpInputs} (h : s.wf = true) : (s.powerUp p).wf = true := by
  simp only [State.wf, Bool.and_eq_true] at h
  simp only [State.wf, State.powerUp, State.clearIo_eq, Bool.and_eq_true]
  exact ⟨rfl, h.2⟩

/-- Reset leaves every memory canonical. -/
theorem State.wf_hostReset {s : State} {a : IoAddress} (h : s.wf = true) : (s.hostReset a).wf = true := by
  have h1 : ((((s.setSp (s.sp - 3)).setInterruptDisable true).ioWrite a.value 0x00)).wf = true := h
  unfold State.hostReset
  generalize ((s.setSp (s.sp - 3)).setInterruptDisable true).ioWrite a.value 0x00 = s1 at h1 ⊢
  unfold State.readWord State.readPair
  dsimp only
  have r1 := State.wf_memRead (a := resetVector) h1
  cases e1 : s1.memRead resetVector with
  | faulted t =>
    rw [e1] at r1
    simp only [State.wf, Bool.and_eq_true] at h1 r1 ⊢
    exact ⟨h1.1, r1.2⟩
  | done v t =>
    rw [e1] at r1
    simp only [Access.bind_done]
    have r2 := State.wf_memRead (a := resetVector + 1) r1
    cases e2 : t.memRead (resetVector + 1) with
    | faulted u =>
      rw [e2] at r2
      simp only [State.wf, Bool.and_eq_true] at h1 r2 ⊢
      exact ⟨h1.1, r2.2⟩
    | done w u => rw [e2] at r2; exact r2

/-- A word write keeps every memory canonical. -/
theorem State.wf_writeWord {s : State} {a w : Word} (h : s.wf = true) : (s.writeWord a w).wf = true :=
  State.wf_memWrite (State.wf_memWrite h)

theorem Memory.wfFrom_zipIdx {size : Nat} (l : List Byte) (lo : Nat) (h : lo + l.length ≤ size) :
    Memory.wfFrom size none lo ((l.zipIdx lo).map fun c => (c.2, c.1)) = true := by
  induction l generalizing lo with
  | nil => rfl
  | cons v l ih =>
    simp only [List.length_cons] at h
    have hlt : lo < size := by omega
    simp [List.zipIdx_cons, Memory.wfFrom, hlt, ih (lo + 1) (by omega)]

/-- A snapshot write leaves every memory canonical. -/
theorem State.wf_writeSnapshot {s : State} {w : SnapshotWrite} (h : s.wf = true) : (s.writeSnapshot w).wf = true := by
  simp only [State.wf, Bool.and_eq_true] at h ⊢
  exact ⟨Memory.wfFrom_zipIdx _ 0 (by simp), h.2⟩

/-- The state before any cartridge is inserted and before power-up that the boot order of State.reset starts from. -/
def State.unpowered : State := { State.reset with ioLog := [], draws := 0 }

/-- State.reset is the state the boot order R603 gives: cartridge, PowerUp (R601), Reset (R602). -/
theorem State.reset_eq_boot :
    State.reset =
      ((State.unpowered.insertCartridge Mapper.blank).powerUp
        ⟨0x0000, Config.powerUpSp, Flags.powerUp, Config.powerUpIoClear⟩).hostReset Config.resetIoClear := by
  decide

end Sys2Proof.Machine
end

