-- ==== Sys2Proof/Laws/Operands.lean ====
section
/-! SUPPORT. What resolving, loading, storing and the shared shapes of a meaning can do, one lemma per operation. -/

namespace Sys2Proof.Machine

/-! ### Resolving and loading only read -/

theorem State.resolve_onlyReads (s : State) (m : Address) : (s.resolve m).OnlyReads s := by
  cases m with
  | indexedIndirect p => exact (s.readWordPW_onlyReads _).bind fun _ t _ => SameCore.refl t
  | indirectIndexed p => exact (s.readWordPW_onlyReads _).bind fun _ t _ => SameCore.refl t
  | _ => exact SameCore.refl s

theorem State.loadAddress_onlyReads (s : State) (m : Address) : (s.loadAddress m).OnlyReads s :=
  (s.resolve_onlyReads m).bind fun r t _ => (t.memRead_onlyReads r.ea).bind fun _ u _ => SameCore.refl u

theorem State.load_onlyReads (s : State) (src : Source) : (s.load src).OnlyReads s := by
  cases src with
  | immediate v => exact SameCore.refl s
  | memory m => exact s.loadAddress_onlyReads m

theorem State.jumpTarget_onlyReads (s : State) (t : JumpTarget) : (s.jumpTarget t).OnlyReads s := by
  cases t with
  | absolute w => exact SameCore.refl s
  | indirect p => exact s.readWordPW_onlyReads p

/-- What `OnlyReads` says of an access that answered. -/
theorem Access.OnlyReads.done {α : Type} {s t : State} {r : Access α} {v : α} (h : r.OnlyReads s)
    (e : r = .done v t) : SameCore s t := by
  subst e; exact h

/-- What `OnlyReads` says of an access that faulted. -/
theorem Access.OnlyReads.faulted {α : Type} {s u : State} {r : Access α} (h : r.OnlyReads s)
    (e : r = .faulted u) : ∃ t a, SameCore s t ∧ u = t.raiseFault a := by
  subst e; exact h

/-- Resolving a memory operand never faults and changes nothing: its own reads are of the zero page (R143 to R151). -/
theorem State.resolve_done (s : State) (m : Address) : ∃ r, s.resolve m = .done r s := by
  cases m with
  | indexedIndirect p => exact ⟨_, by rw [State.resolve, State.readWordPW_zeroPage]; rfl⟩
  | indirectIndexed p => exact ⟨_, by rw [State.resolve, State.readWordPW_zeroPage]; rfl⟩
  | _ => exact ⟨_, rfl⟩

/-! ### The shared shapes: everything a meaning built on one can answer -/

theorem readThen_cases {src : Source} {base : Nat} {penalty : Bool → Nat} {effect : Byte → State → State}
    {s t : State} (h : readThen src base penalty effect s = .next t) :
    (∃ l s1, s.load src = .done l s1 ∧ SameCore s s1 ∧ t = (effect l.value s1).addCycles (base + penalty l.crossed)) ∨
    (s.load src = .faulted t ∧ ∃ s1 a, SameCore s s1 ∧ t = s1.raiseFault a) := by
  rcases Access.andThen_eq_next.mp h with h | ⟨l, s1, hl, h⟩
  · exact .inr ⟨h, (s.load_onlyReads src).faulted h⟩
  · exact .inl ⟨l, s1, hl, (s.load_onlyReads src).done hl, by simpa using h.symm⟩

/-- A store resolves, writes one byte at the effective address, and adds its cycles; it never faults. -/
theorem storeThen_eq {m : Address} {base : Nat} {v : Byte} {s : State} :
    ∃ r, s.resolve m = .done r s ∧ storeThen m base v s = .next ((s.memWrite r.ea v).addCycles base) := by
  obtain ⟨r, hr⟩ := s.resolve_done m
  exact ⟨r, hr, by simp [storeThen, State.storeAddress, hr]⟩

theorem modifyAddress_cases {m : Address} {f : Byte → State → Byte × State} {s : State} :
    (∃ r v s1, s.resolve m = .done r s ∧ s.memRead r.ea = .done v s1 ∧ SameCore s s1 ∧
      s.modifyAddress m f = .done () ((f v s1).2.memWrite r.ea (f v s1).1)) ∨
    (∃ r s1, s.resolve m = .done r s ∧ SameCore s s1 ∧ s.memRead r.ea = .faulted (s1.raiseFault r.ea) ∧
      s.modifyAddress m f = .faulted (s1.raiseFault r.ea)) := by
  obtain ⟨r, hr⟩ := s.resolve_done m
  rcases s.memRead_cases r.ea with ⟨v, s1, hv, hs⟩ | ⟨s1, hv, hs⟩
  · exact .inl ⟨r, v, s1, hr, hv, hs, by simp [State.modifyAddress, hr, hv]⟩
  · exact .inr ⟨r, s1, hr, hs, hv, by simp [State.modifyAddress, hr, hv]⟩

/-- A taken branch sets PC and adds its cycles; one not taken only adds its cycles (R300). -/
theorem branchThen_eq (cond : Bool) (disp : Byte) (base : Nat) (s : State) :
    branchThen cond disp base s =
      .next (if cond then (s.setPc (branchTarget s.pc disp)).addCycles (base + branchExtra s.pc (branchTarget s.pc disp))
        else s.addCycles base) := by
  cases cond <;> rfl

@[simp] theorem impliedThen_eq (base : Nat) (effect : State → State) (s : State) :
    impliedThen base effect s = .next ((effect s).addCycles base) := rfl

end Sys2Proof.Machine
end

