-- ==== Sys2Proof/Laws/PerInstr.lean ====
section
/-! SUPPORT. What is said of every instruction as syntax, one lemma per constructor: the encoder writes as many bytes as R131
gives the instruction. -/

namespace Sys2Proof.Laws.EncodedLength

/-- A well-formed instruction is encoded in `Instr.length` bytes (R131). -/
def Statement (i : Instr) : Prop := i.wellFormed = true → (encode i).length = i.length

/-- A term whose mode the opcode map does not give its operation is not well-formed, so nothing is said of it. -/
theorem of_mode_refused {i : Instr} (h : i.modeAllowed = false) : Statement i := by
  intro hw
  rw [Instr.wellFormed, h] at hw
  simp at hw

theorem adc (src : Source) : Statement (.adc src) := by
  cases src with
  | immediate v => intro _; rfl
  | memory m => cases m <;> first | (intro _; rfl) | exact of_mode_refused rfl
theorem sbc (src : Source) : Statement (.sbc src) := by
  cases src with
  | immediate v => intro _; rfl
  | memory m => cases m <;> first | (intro _; rfl) | exact of_mode_refused rfl
theorem and (src : Source) : Statement (.and src) := by
  cases src with
  | immediate v => intro _; rfl
  | memory m => cases m <;> first | (intro _; rfl) | exact of_mode_refused rfl
theorem ora (src : Source) : Statement (.ora src) := by
  cases src with
  | immediate v => intro _; rfl
  | memory m => cases m <;> first | (intro _; rfl) | exact of_mode_refused rfl
theorem eor (src : Source) : Statement (.eor src) := by
  cases src with
  | immediate v => intro _; rfl
  | memory m => cases m <;> first | (intro _; rfl) | exact of_mode_refused rfl
theorem bit (m : Address) : Statement (.bit m) := by
  cases m <;> first | (intro _; rfl) | exact of_mode_refused rfl
theorem asl (p : Place) : Statement (.asl p) := by
  cases p with
  | accumulator => intro _; rfl
  | memory m => cases m <;> first | (intro _; rfl) | exact of_mode_refused rfl
theorem lsr (p : Place) : Statement (.lsr p) := by
  cases p with
  | accumulator => intro _; rfl
  | memory m => cases m <;> first | (intro _; rfl) | exact of_mode_refused rfl
theorem rol (p : Place) : Statement (.rol p) := by
  cases p with
  | accumulator => intro _; rfl
  | memory m => cases m <;> first | (intro _; rfl) | exact of_mode_refused rfl
theorem ror (p : Place) : Statement (.ror p) := by
  cases p with
  | accumulator => intro _; rfl
  | memory m => cases m <;> first | (intro _; rfl) | exact of_mode_refused rfl
theorem bcc (disp : Byte) : Statement (.bcc disp) := fun _ => rfl
theorem bcs (disp : Byte) : Statement (.bcs disp) := fun _ => rfl
theorem beq (disp : Byte) : Statement (.beq disp) := fun _ => rfl
theorem bne (disp : Byte) : Statement (.bne disp) := fun _ => rfl
theorem bmi (disp : Byte) : Statement (.bmi disp) := fun _ => rfl
theorem bpl (disp : Byte) : Statement (.bpl disp) := fun _ => rfl
theorem bvc (disp : Byte) : Statement (.bvc disp) := fun _ => rfl
theorem bvs (disp : Byte) : Statement (.bvs disp) := fun _ => rfl
theorem jmp (t : JumpTarget) : Statement (.jmp t) := by
  cases t <;> (intro _; rfl)
theorem jsr (target : Word) : Statement (.jsr target) := fun _ => rfl
theorem rts : Statement .rts := fun _ => rfl
theorem brk : Statement .brk := fun _ => rfl
theorem rti : Statement .rti := fun _ => rfl
theorem clc : Statement .clc := fun _ => rfl
theorem sec : Statement .sec := fun _ => rfl
theorem cli : Statement .cli := fun _ => rfl
theorem sei : Statement .sei := fun _ => rfl
theorem cld : Statement .cld := fun _ => rfl
theorem sed : Statement .sed := fun _ => rfl
theorem clv : Statement .clv := fun _ => rfl
theorem tax : Statement .tax := fun _ => rfl
theorem tay : Statement .tay := fun _ => rfl
theorem txa : Statement .txa := fun _ => rfl
theorem tya : Statement .tya := fun _ => rfl
theorem tsx : Statement .tsx := fun _ => rfl
theorem txs : Statement .txs := fun _ => rfl
theorem inx : Statement .inx := fun _ => rfl
theorem iny : Statement .iny := fun _ => rfl
theorem dex : Statement .dex := fun _ => rfl
theorem dey : Statement .dey := fun _ => rfl
theorem inc (m : Address) : Statement (.inc m) := by
  cases m <;> first | (intro _; rfl) | exact of_mode_refused rfl
theorem dec (m : Address) : Statement (.dec m) := by
  cases m <;> first | (intro _; rfl) | exact of_mode_refused rfl
theorem cmp (src : Source) : Statement (.cmp src) := by
  cases src with
  | immediate v => intro _; rfl
  | memory m => cases m <;> first | (intro _; rfl) | exact of_mode_refused rfl
theorem cpx (src : Source) : Statement (.cpx src) := by
  cases src with
  | immediate v => intro _; rfl
  | memory m => cases m <;> first | (intro _; rfl) | exact of_mode_refused rfl
theorem cpy (src : Source) : Statement (.cpy src) := by
  cases src with
  | immediate v => intro _; rfl
  | memory m => cases m <;> first | (intro _; rfl) | exact of_mode_refused rfl
theorem lda (src : Source) : Statement (.lda src) := by
  cases src with
  | immediate v => intro _; rfl
  | memory m => cases m <;> first | (intro _; rfl) | exact of_mode_refused rfl
theorem ldx (src : Source) : Statement (.ldx src) := by
  cases src with
  | immediate v => intro _; rfl
  | memory m => cases m <;> first | (intro _; rfl) | exact of_mode_refused rfl
theorem ldy (src : Source) : Statement (.ldy src) := by
  cases src with
  | immediate v => intro _; rfl
  | memory m => cases m <;> first | (intro _; rfl) | exact of_mode_refused rfl
theorem sta (m : Address) : Statement (.sta m) := by
  cases m <;> first | (intro _; rfl) | exact of_mode_refused rfl
theorem stx (m : Address) : Statement (.stx m) := by
  cases m <;> first | (intro _; rfl) | exact of_mode_refused rfl
theorem sty (m : Address) : Statement (.sty m) := by
  cases m <;> first | (intro _; rfl) | exact of_mode_refused rfl
theorem pha : Statement .pha := fun _ => rfl
theorem php : Statement .php := fun _ => rfl
theorem pla : Statement .pla := fun _ => rfl
theorem plp : Statement .plp := fun _ => rfl
theorem nop : Statement .nop := fun _ => rfl
theorem undoc (opcode : Byte) : Statement (.undoc opcode) := fun _ => rfl

end Sys2Proof.Laws.EncodedLength
end

