-- ==== Sys2Proof/Laws/Step.lean ====
section
/-! SUPPORT. What a fetch and a step can do. -/

namespace Sys2Proof.Machine

theorem State.fetchOperands_onlyReads (s : State) (opPC : Word) (opcode : Byte) :
    (s.fetchOperands opPC opcode).OnlyReads s := by
  unfold State.fetchOperands
  split
  · exact SameCore.refl s
  · exact (s.memRead_onlyReads _).bind fun _ t _ => SameCore.refl t
  · exact (s.memRead_onlyReads _).bind fun _ t _ => (t.memRead_onlyReads _).bind fun _ u _ => SameCore.refl u

/-- A fetch that answers changed nothing but PC and what the ports were asked, and PC is past the instruction (R170). -/
theorem State.fetch_done {s t : State} {i : Instr} (h : s.fetch = .done i t) :
    SameCore (s.setPc (s.pc + BitVec.ofNat 16 i.length)) t := by
  obtain ⟨op, s1, h1, h⟩ := Access.bind_eq_done.mp h
  obtain ⟨j, s2, h2, h⟩ := Access.bind_eq_done.mp h
  injection h with hi ht
  subst hi ht
  have hs := ((s.memRead_onlyReads _).done h1).trans ((s1.fetchOperands_onlyReads _ _).done h2)
  unfold SameCore at hs ⊢
  rw [hs]
  rfl

/-- A fetch that faults ends in a fault raised in a state of the same core. -/
theorem State.fetch_faulted {s u : State} (h : s.fetch = .faulted u) : ∃ t a, SameCore s t ∧ u = t.raiseFault a := by
  rcases Access.bind_eq_faulted.mp h with h | ⟨op, s1, h1, h⟩
  · exact (s.memRead_onlyReads _).faulted h
  · rcases Access.bind_eq_faulted.mp h with h | ⟨i, s2, h2, h⟩
    · obtain ⟨t, a, ht, hu⟩ := (s1.fetchOperands_onlyReads _ _).faulted h
      exact ⟨t, a, ((s.memRead_onlyReads _).done h1).trans ht, hu⟩
    · simp at h

/-- Everything a step can do: nothing in a faulted machine, an NMI entry, an IRQ entry, or a fetch with either its fault
or the meaning of the instruction fetched (R170, R503). -/
theorem step_cases {s t : State} (h : step s = .next t) :
    (s.running = false ∧ t = s) ∨
    (s.running = true ∧ s.nmiPending = true ∧ s.nmiEntry = .next t) ∨
    (s.running = true ∧ s.nmiPending = false ∧ (s.irqPending && !s.flags.i) = true ∧ s.irqEntry = .next t) ∨
    (s.quiet = true ∧ (s.fetch = .faulted t ∨ ∃ i s1, s.fetch = .done i s1 ∧ exec i s1 = .next t)) := by
  unfold step at h
  split at h
  · rename_i a hf
    injection h with h
    exact .inl ⟨by simp [State.running, hf], h.symm⟩
  · rename_i hf
    have hr : s.running = true := by simp [State.running, hf]
    split at h
    · exact .inr (.inl ⟨hr, by assumption, h⟩)
    · rename_i hn
      split at h
      · exact .inr (.inr (.inl ⟨hr, by simpa using hn, by assumption, h⟩))
      · rename_i hi
        refine .inr (.inr (.inr ⟨?_, Access.andThen_eq_next.mp h⟩))
        simp only [State.quiet, hr]
        cases hq : s.irqPending <;> cases hj : s.flags.i <;> simp_all

/-- A quiet machine fetches one instruction and executes it (R170). -/
theorem step_of_quiet {s : State} (h : s.quiet = true) : step s = s.fetch.andThen exec := by
  simp only [State.quiet, State.running, Bool.and_eq_true, Option.isNone_iff_eq_none, Bool.not_eq_true',
    Bool.or_eq_true] at h
  obtain ⟨⟨hf, hn⟩, hi⟩ := h
  unfold step
  rw [hf]
  rcases hi with hi | hi <;> simp [hn, hi]

/-- A machine with a pending NMI enters its handler (R503, R505). -/
theorem step_of_nmi {s : State} (hf : s.running = true) (h : s.nmiPending = true) : step s = s.nmiEntry := by
  simp only [State.running, Option.isNone_iff_eq_none] at hf
  simp [step, hf, h]

/-- A machine with a pending IRQ, I clear and no NMI enters its handler (R503, R506). -/
theorem step_of_irq {s : State} (hf : s.running = true) (hn : s.nmiPending = false) (h : s.irqPending = true)
    (hi : s.flags.i = false) : step s = s.irqEntry := by
  simp only [State.running, Option.isNone_iff_eq_none] at hf
  simp [step, hf, hn, h, hi]

end Sys2Proof.Machine
end

