-- ==== Sys2Proof/Machine/Assembly.lean ====
section
/-! DEFINITION. The assembly text of an instruction (spec/30_encoding.md R165 and the syntax lines of R140 to R152). The core reads
no text; these definitions say how the spec's examples name an instruction. R166 defines no pseudo-instruction. -/

namespace Sys2Proof

/-- Assembly text: its characters. -/
abbrev Text := List Char

/-- The capital hexadecimal digit of a value below 16. -/
def hexDigit (n : Nat) : Char := if n < 10 then Char.ofNat (48 + n) else Char.ofNat (55 + n)

/-- Two hexadecimal digits after `$`: a zero page address or an immediate byte (R165). -/
def hexByte (v : Byte) : Text := ['$', hexDigit (v.toNat / 16), hexDigit (v.toNat % 16)]

/-- Four hexadecimal digits after `$`: an absolute address (R165). -/
def hexWord (w : Word) : Text :=
  ['$', hexDigit (w.toNat / 0x1000), hexDigit (w.toNat / 0x100 % 16), hexDigit (w.toNat / 16 % 16), hexDigit (w.toNat % 16)]

/-- The operand text of a memory operand (R143 to R148, R150, R151). -/
def Address.text : Address → Text
  | .zeroPage a => hexByte a
  | .zeroPageX a => hexByte a ++ [',', 'X']
  | .zeroPageY a => hexByte a ++ [',', 'Y']
  | .absolute w => hexWord w
  | .absoluteX w => hexWord w ++ [',', 'X']
  | .absoluteY w => hexWord w ++ [',', 'Y']
  | .indexedIndirect a => ['('] ++ hexByte a ++ [',', 'X', ')']
  | .indirectIndexed a => ['('] ++ hexByte a ++ [')', ',', 'Y']

/-- The operand text of a read-class operand (R142). -/
def Source.text : Source → Text
  | .immediate v => '#' :: hexByte v
  | .memory m => m.text

/-- The operand text of a shift or rotate operand (R141). -/
def Place.text : Place → Text
  | .accumulator => ['A']
  | .memory m => m.text

/-- The operand text of a JMP operand (R146, R149). -/
def JumpTarget.text : JumpTarget → Text
  | .absolute w => hexWord w
  | .indirect w => ['('] ++ hexWord w ++ [')']

/-- The mnemonic; none for an undocumented opcode, which the syntax does not name. -/
def Instr.mnemonic : Instr → Text
  | .adc _ => ['A', 'D', 'C']
  | .sbc _ => ['S', 'B', 'C']
  | .and _ => ['A', 'N', 'D']
  | .ora _ => ['O', 'R', 'A']
  | .eor _ => ['E', 'O', 'R']
  | .bit _ => ['B', 'I', 'T']
  | .asl _ => ['A', 'S', 'L']
  | .lsr _ => ['L', 'S', 'R']
  | .rol _ => ['R', 'O', 'L']
  | .ror _ => ['R', 'O', 'R']
  | .bcc _ => ['B', 'C', 'C']
  | .bcs _ => ['B', 'C', 'S']
  | .beq _ => ['B', 'E', 'Q']
  | .bne _ => ['B', 'N', 'E']
  | .bmi _ => ['B', 'M', 'I']
  | .bpl _ => ['B', 'P', 'L']
  | .bvc _ => ['B', 'V', 'C']
  | .bvs _ => ['B', 'V', 'S']
  | .jmp _ => ['J', 'M', 'P']
  | .jsr _ => ['J', 'S', 'R']
  | .rts => ['R', 'T', 'S']
  | .brk => ['B', 'R', 'K']
  | .rti => ['R', 'T', 'I']
  | .clc => ['C', 'L', 'C']
  | .sec => ['S', 'E', 'C']
  | .cli => ['C', 'L', 'I']
  | .sei => ['S', 'E', 'I']
  | .cld => ['C', 'L', 'D']
  | .sed => ['S', 'E', 'D']
  | .clv => ['C', 'L', 'V']
  | .tax => ['T', 'A', 'X']
  | .tay => ['T', 'A', 'Y']
  | .txa => ['T', 'X', 'A']
  | .tya => ['T', 'Y', 'A']
  | .tsx => ['T', 'S', 'X']
  | .txs => ['T', 'X', 'S']
  | .inx => ['I', 'N', 'X']
  | .iny => ['I', 'N', 'Y']
  | .dex => ['D', 'E', 'X']
  | .dey => ['D', 'E', 'Y']
  | .inc _ => ['I', 'N', 'C']
  | .dec _ => ['D', 'E', 'C']
  | .cmp _ => ['C', 'M', 'P']
  | .cpx _ => ['C', 'P', 'X']
  | .cpy _ => ['C', 'P', 'Y']
  | .lda _ => ['L', 'D', 'A']
  | .ldx _ => ['L', 'D', 'X']
  | .ldy _ => ['L', 'D', 'Y']
  | .sta _ => ['S', 'T', 'A']
  | .stx _ => ['S', 'T', 'X']
  | .sty _ => ['S', 'T', 'Y']
  | .pha => ['P', 'H', 'A']
  | .php => ['P', 'H', 'P']
  | .pla => ['P', 'L', 'A']
  | .plp => ['P', 'L', 'P']
  | .nop => ['N', 'O', 'P']
  | .undoc _ => []

/-- The operand text of an instruction at opPC: a branch shows its target address (R152, R165), and an implied instruction, BRK
among them, stands alone. -/
def Instr.operandText (opPC : Word) : Instr → Text
  | .adc src | .sbc src | .and src | .ora src | .eor src | .cmp src | .cpx src | .cpy src | .lda src | .ldx src
  | .ldy src => src.text
  | .bit m | .inc m | .dec m | .sta m | .stx m | .sty m => m.text
  | .asl p | .lsr p | .rol p | .ror p => p.text
  | .bcc d | .bcs d | .beq d | .bne d | .bmi d | .bpl d | .bvc d | .bvs d => hexWord (opPC + 2 + sext16 d)
  | .jmp t => t.text
  | .jsr w => hexWord w
  | .rts | .brk | .rti | .clc | .sec | .cli | .sei | .cld | .sed | .clv | .tax | .tay | .txa | .tya | .tsx | .txs
  | .inx | .iny | .dex | .dey | .pha | .php | .pla | .plp | .nop | .undoc _ => []

/-- The line of assembly text of an instruction at opPC; none for an undocumented opcode. -/
def Instr.text (opPC : Word) (i : Instr) : Option Text :=
  match i.mnemonic, i.operandText opPC with
  | [], _ => none
  | name, [] => some name
  | name, operand => some (name ++ [' '] ++ operand)

/-- The displacement byte that the assembler computes for a branch at opPC to a target, `target - (opPC + 2)`; it rejects a
displacement outside -128 to +127 (R165). -/
def branchOperand (opPC target : Word) : Option Byte :=
  let d := target - (opPC + 2)
  if sext16 (lowByte d) = d then some (lowByte d) else none

end Sys2Proof
end

