-- ==== Sys2Proof/Tests/Slice0.lean ====
section
/-! SUPPORT. The model's own tests: ill-formed terms are refused; the opcode table's words decode as the table says; single
steps give what spec/95_test_vectors.md says (the vector is named in each docstring); and a witness for the hypotheses of
every statement of the certificate. -/

namespace Sys2Proof.Tests

open Sys2Proof.Machine Sys2Proof.Claims

-- Each kernel evaluation in its own thread would exhaust the sandbox's memory: they run one after another.
set_option Elab.async false

/-! ### Ill-formed terms are refused -/

theorem test_wellFormed_refuses_a_mode_the_operation_lacks :
    [Instr.bit (.absoluteX 0x1234), .sta (.zeroPageY 0x10), .stx (.zeroPageX 0x10), .sty (.absoluteX 0x1234),
      .ldx (.memory (.zeroPageX 0x10)), .ldy (.memory (.zeroPageY 0x10)), .cpx (.memory (.zeroPageX 0x10)),
      .cpy (.memory (.indexedIndirect 0x10)), .inc (.absoluteY 0x1234), .dec (.zeroPageY 0x10),
      .asl (.memory (.absoluteY 0x1234)), .lsr (.memory (.zeroPageY 0x10)), .rol (.memory (.indexedIndirect 0x10)),
      .ror (.memory (.indirectIndexed 0x10)), .adc (.memory (.zeroPageY 0x10)), .sbc (.memory (.zeroPageY 0x10)),
      .and (.memory (.zeroPageY 0x10)), .ora (.memory (.zeroPageY 0x10)), .eor (.memory (.zeroPageY 0x10)),
      .cmp (.memory (.zeroPageY 0x10)), .lda (.memory (.zeroPageY 0x10))].all
      (fun i => !i.modeAllowed && !i.wellFormed && encode i == []) = true := by decide

theorem test_wellFormed_refuses_a_documented_byte_as_undocumented :
    [Instr.undoc 0xEA, .undoc 0x00, .undoc 0x69].all (fun i => !i.byteAllowed && !i.wellFormed) = true := by decide

theorem test_wellFormed_accepts :
    [Instr.lda (.immediate 0x05), .sta (.absolute 0x0010), .stx (.zeroPageY 0xFF), .jmp (.indirect 0x30FF), .brk,
      .undoc 0x02, .asl .accumulator].all Instr.wellFormed = true := by decide

/-! ### Decoding: spec/opcode_table.json, row by row (instruction, length, base cycles), with the operand bytes 34 12 -/

/-- What the decoder and the table R161 say of the 16 opcodes from `first` on. -/
def mapRow (first : Nat) : List (Instr × Nat × Nat) :=
  (List.range 16).map fun k =>
    let i := Instr.ofBytes (BitVec.ofNat 8 (first + k)) 0x34 0x12
    (i, i.length, i.baseCycles)

theorem test_opcode_map_row_0 : mapRow 0x00 =
    [(.brk, 2, 7), (.ora (.memory (.indexedIndirect 0x34)), 2, 6), (.undoc 0x02, 1, 2), (.undoc 0x03, 1, 2),
     (.undoc 0x04, 1, 2), (.ora (.memory (.zeroPage 0x34)), 2, 3), (.asl (.memory (.zeroPage 0x34)), 2, 5),
     (.undoc 0x07, 1, 2), (.php, 1, 3), (.ora (.immediate 0x34), 2, 2), (.asl .accumulator, 1, 2),
     (.undoc 0x0B, 1, 2), (.undoc 0x0C, 1, 2), (.ora (.memory (.absolute 0x1234)), 3, 4),
     (.asl (.memory (.absolute 0x1234)), 3, 6), (.undoc 0x0F, 1, 2)] := by decide +kernel

theorem test_opcode_map_row_1 : mapRow 0x10 =
    [(.bpl 0x34, 2, 2), (.ora (.memory (.indirectIndexed 0x34)), 2, 5), (.undoc 0x12, 1, 2), (.undoc 0x13, 1, 2),
     (.undoc 0x14, 1, 2), (.ora (.memory (.zeroPageX 0x34)), 2, 4), (.asl (.memory (.zeroPageX 0x34)), 2, 6),
     (.undoc 0x17, 1, 2), (.clc, 1, 2), (.ora (.memory (.absoluteY 0x1234)), 3, 4), (.undoc 0x1A, 1, 2),
     (.undoc 0x1B, 1, 2), (.undoc 0x1C, 1, 2), (.ora (.memory (.absoluteX 0x1234)), 3, 4),
     (.asl (.memory (.absoluteX 0x1234)), 3, 7), (.undoc 0x1F, 1, 2)] := by decide +kernel

theorem test_opcode_map_row_2 : mapRow 0x20 =
    [(.jsr 0x1234, 3, 6), (.and (.memory (.indexedIndirect 0x34)), 2, 6), (.undoc 0x22, 1, 2), (.undoc 0x23, 1, 2),
     (.bit (.zeroPage 0x34), 2, 3), (.and (.memory (.zeroPage 0x34)), 2, 3), (.rol (.memory (.zeroPage 0x34)), 2, 5),
     (.undoc 0x27, 1, 2), (.plp, 1, 4), (.and (.immediate 0x34), 2, 2), (.rol .accumulator, 1, 2),
     (.undoc 0x2B, 1, 2), (.bit (.absolute 0x1234), 3, 4), (.and (.memory (.absolute 0x1234)), 3, 4),
     (.rol (.memory (.absolute 0x1234)), 3, 6), (.undoc 0x2F, 1, 2)] := by decide +kernel

theorem test_opcode_map_row_3 : mapRow 0x30 =
    [(.bmi 0x34, 2, 2), (.and (.memory (.indirectIndexed 0x34)), 2, 5), (.undoc 0x32, 1, 2), (.undoc 0x33, 1, 2),
     (.undoc 0x34, 1, 2), (.and (.memory (.zeroPageX 0x34)), 2, 4), (.rol (.memory (.zeroPageX 0x34)), 2, 6),
     (.undoc 0x37, 1, 2), (.sec, 1, 2), (.and (.memory (.absoluteY 0x1234)), 3, 4), (.undoc 0x3A, 1, 2),
     (.undoc 0x3B, 1, 2), (.undoc 0x3C, 1, 2), (.and (.memory (.absoluteX 0x1234)), 3, 4),
     (.rol (.memory (.absoluteX 0x1234)), 3, 7), (.undoc 0x3F, 1, 2)] := by decide +kernel

theorem test_opcode_map_row_4 : mapRow 0x40 =
    [(.rti, 1, 6), (.eor (.memory (.indexedIndirect 0x34)), 2, 6), (.undoc 0x42, 1, 2), (.undoc 0x43, 1, 2),
     (.undoc 0x44, 1, 2), (.eor (.memory (.zeroPage 0x34)), 2, 3), (.lsr (.memory (.zeroPage 0x34)), 2, 5),
     (.undoc 0x47, 1, 2), (.pha, 1, 3), (.eor (.immediate 0x34), 2, 2), (.lsr .accumulator, 1, 2),
     (.undoc 0x4B, 1, 2), (.jmp (.absolute 0x1234), 3, 3), (.eor (.memory (.absolute 0x1234)), 3, 4),
     (.lsr (.memory (.absolute 0x1234)), 3, 6), (.undoc 0x4F, 1, 2)] := by decide +kernel

theorem test_opcode_map_row_5 : mapRow 0x50 =
    [(.bvc 0x34, 2, 2), (.eor (.memory (.indirectIndexed 0x34)), 2, 5), (.undoc 0x52, 1, 2), (.undoc 0x53, 1, 2),
     (.undoc 0x54, 1, 2), (.eor (.memory (.zeroPageX 0x34)), 2, 4), (.lsr (.memory (.zeroPageX 0x34)), 2, 6),
     (.undoc 0x57, 1, 2), (.cli, 1, 2), (.eor (.memory (.absoluteY 0x1234)), 3, 4), (.undoc 0x5A, 1, 2),
     (.undoc 0x5B, 1, 2), (.undoc 0x5C, 1, 2), (.eor (.memory (.absoluteX 0x1234)), 3, 4),
     (.lsr (.memory (.absoluteX 0x1234)), 3, 7), (.undoc 0x5F, 1, 2)] := by decide +kernel

theorem test_opcode_map_row_6 : mapRow 0x60 =
    [(.rts, 1, 6), (.adc (.memory (.indexedIndirect 0x34)), 2, 6), (.undoc 0x62, 1, 2), (.undoc 0x63, 1, 2),
     (.undoc 0x64, 1, 2), (.adc (.memory (.zeroPage 0x34)), 2, 3), (.ror (.memory (.zeroPage 0x34)), 2, 5),
     (.undoc 0x67, 1, 2), (.pla, 1, 4), (.adc (.immediate 0x34), 2, 2), (.ror .accumulator, 1, 2),
     (.undoc 0x6B, 1, 2), (.jmp (.indirect 0x1234), 3, 5), (.adc (.memory (.absolute 0x1234)), 3, 4),
     (.ror (.memory (.absolute 0x1234)), 3, 6), (.undoc 0x6F, 1, 2)] := by decide +kernel

theorem test_opcode_map_row_7 : mapRow 0x70 =
    [(.bvs 0x34, 2, 2), (.adc (.memory (.indirectIndexed 0x34)), 2, 5), (.undoc 0x72, 1, 2), (.undoc 0x73, 1, 2),
     (.undoc 0x74, 1, 2), (.adc (.memory (.zeroPageX 0x34)), 2, 4), (.ror (.memory (.zeroPageX 0x34)), 2, 6),
     (.undoc 0x77, 1, 2), (.sei, 1, 2), (.adc (.memory (.absoluteY 0x1234)), 3, 4), (.undoc 0x7A, 1, 2),
     (.undoc 0x7B, 1, 2), (.undoc 0x7C, 1, 2), (.adc (.memory (.absoluteX 0x1234)), 3, 4),
     (.ror (.memory (.absoluteX 0x1234)), 3, 7), (.undoc 0x7F, 1, 2)] := by decide +kernel

theorem test_opcode_map_row_8 : mapRow 0x80 =
    [(.undoc 0x80, 1, 2), (.sta (.indexedIndirect 0x34), 2, 6), (.undoc 0x82, 1, 2), (.undoc 0x83, 1, 2),
     (.sty (.zeroPage 0x34), 2, 3), (.sta (.zeroPage 0x34), 2, 3), (.stx (.zeroPage 0x34), 2, 3), (.undoc 0x87, 1, 2),
     (.dey, 1, 2), (.undoc 0x89, 1, 2), (.txa, 1, 2), (.undoc 0x8B, 1, 2), (.sty (.absolute 0x1234), 3, 4),
     (.sta (.absolute 0x1234), 3, 4), (.stx (.absolute 0x1234), 3, 4), (.undoc 0x8F, 1, 2)] := by decide +kernel

theorem test_opcode_map_row_9 : mapRow 0x90 =
    [(.bcc 0x34, 2, 2), (.sta (.indirectIndexed 0x34), 2, 6), (.undoc 0x92, 1, 2), (.undoc 0x93, 1, 2),
     (.sty (.zeroPageX 0x34), 2, 4), (.sta (.zeroPageX 0x34), 2, 4), (.stx (.zeroPageY 0x34), 2, 4),
     (.undoc 0x97, 1, 2), (.tya, 1, 2), (.sta (.absoluteY 0x1234), 3, 5), (.txs, 1, 2), (.undoc 0x9B, 1, 2),
     (.undoc 0x9C, 1, 2), (.sta (.absoluteX 0x1234), 3, 5), (.undoc 0x9E, 1, 2), (.undoc 0x9F, 1, 2)] := by decide +kernel

theorem test_opcode_map_row_A : mapRow 0xA0 =
    [(.ldy (.immediate 0x34), 2, 2), (.lda (.memory (.indexedIndirect 0x34)), 2, 6), (.ldx (.immediate 0x34), 2, 2),
     (.undoc 0xA3, 1, 2), (.ldy (.memory (.zeroPage 0x34)), 2, 3), (.lda (.memory (.zeroPage 0x34)), 2, 3),
     (.ldx (.memory (.zeroPage 0x34)), 2, 3), (.undoc 0xA7, 1, 2), (.tay, 1, 2), (.lda (.immediate 0x34), 2, 2),
     (.tax, 1, 2), (.undoc 0xAB, 1, 2), (.ldy (.memory (.absolute 0x1234)), 3, 4),
     (.lda (.memory (.absolute 0x1234)), 3, 4), (.ldx (.memory (.absolute 0x1234)), 3, 4), (.undoc 0xAF, 1, 2)] := by decide +kernel

theorem test_opcode_map_row_B : mapRow 0xB0 =
    [(.bcs 0x34, 2, 2), (.lda (.memory (.indirectIndexed 0x34)), 2, 5), (.undoc 0xB2, 1, 2), (.undoc 0xB3, 1, 2),
     (.ldy (.memory (.zeroPageX 0x34)), 2, 4), (.lda (.memory (.zeroPageX 0x34)), 2, 4),
     (.ldx (.memory (.zeroPageY 0x34)), 2, 4), (.undoc 0xB7, 1, 2), (.clv, 1, 2),
     (.lda (.memory (.absoluteY 0x1234)), 3, 4), (.tsx, 1, 2), (.undoc 0xBB, 1, 2),
     (.ldy (.memory (.absoluteX 0x1234)), 3, 4), (.lda (.memory (.absoluteX 0x1234)), 3, 4),
     (.ldx (.memory (.absoluteY 0x1234)), 3, 4), (.undoc 0xBF, 1, 2)] := by decide +kernel

theorem test_opcode_map_row_C : mapRow 0xC0 =
    [(.cpy (.immediate 0x34), 2, 2), (.cmp (.memory (.indexedIndirect 0x34)), 2, 6), (.undoc 0xC2, 1, 2),
     (.undoc 0xC3, 1, 2), (.cpy (.memory (.zeroPage 0x34)), 2, 3), (.cmp (.memory (.zeroPage 0x34)), 2, 3),
     (.dec (.zeroPage 0x34), 2, 5), (.undoc 0xC7, 1, 2), (.iny, 1, 2), (.cmp (.immediate 0x34), 2, 2), (.dex, 1, 2),
     (.undoc 0xCB, 1, 2), (.cpy (.memory (.absolute 0x1234)), 3, 4), (.cmp (.memory (.absolute 0x1234)), 3, 4),
     (.dec (.absolute 0x1234), 3, 6), (.undoc 0xCF, 1, 2)] := by decide +kernel

theorem test_opcode_map_row_D : mapRow 0xD0 =
    [(.bne 0x34, 2, 2), (.cmp (.memory (.indirectIndexed 0x34)), 2, 5), (.undoc 0xD2, 1, 2), (.undoc 0xD3, 1, 2),
     (.undoc 0xD4, 1, 2), (.cmp (.memory (.zeroPageX 0x34)), 2, 4), (.dec (.zeroPageX 0x34), 2, 6),
     (.undoc 0xD7, 1, 2), (.cld, 1, 2), (.cmp (.memory (.absoluteY 0x1234)), 3, 4), (.undoc 0xDA, 1, 2),
     (.undoc 0xDB, 1, 2), (.undoc 0xDC, 1, 2), (.cmp (.memory (.absoluteX 0x1234)), 3, 4),
     (.dec (.absoluteX 0x1234), 3, 7), (.undoc 0xDF, 1, 2)] := by decide +kernel

theorem test_opcode_map_row_E : mapRow 0xE0 =
    [(.cpx (.immediate 0x34), 2, 2), (.sbc (.memory (.indexedIndirect 0x34)), 2, 6), (.undoc 0xE2, 1, 2),
     (.undoc 0xE3, 1, 2), (.cpx (.memory (.zeroPage 0x34)), 2, 3), (.sbc (.memory (.zeroPage 0x34)), 2, 3),
     (.inc (.zeroPage 0x34), 2, 5), (.undoc 0xE7, 1, 2), (.inx, 1, 2), (.sbc (.immediate 0x34), 2, 2), (.nop, 1, 2),
     (.undoc 0xEB, 1, 2), (.cpx (.memory (.absolute 0x1234)), 3, 4), (.sbc (.memory (.absolute 0x1234)), 3, 4),
     (.inc (.absolute 0x1234), 3, 6), (.undoc 0xEF, 1, 2)] := by decide +kernel

theorem test_opcode_map_row_F : mapRow 0xF0 =
    [(.beq 0x34, 2, 2), (.sbc (.memory (.indirectIndexed 0x34)), 2, 5), (.undoc 0xF2, 1, 2), (.undoc 0xF3, 1, 2),
     (.undoc 0xF4, 1, 2), (.sbc (.memory (.zeroPageX 0x34)), 2, 4), (.inc (.zeroPageX 0x34), 2, 6),
     (.undoc 0xF7, 1, 2), (.sed, 1, 2), (.sbc (.memory (.absoluteY 0x1234)), 3, 4), (.undoc 0xFA, 1, 2),
     (.undoc 0xFB, 1, 2), (.undoc 0xFC, 1, 2), (.sbc (.memory (.absoluteX 0x1234)), 3, 4),
     (.inc (.absoluteX 0x1234), 3, 7), (.undoc 0xFF, 1, 2)] := by decide +kernel

/-- Too few bytes are refused by name; the opcode byte alone says how many there must be (R131). -/
theorem test_decode_refuses_too_few_bytes :
    (match decode [] with | .error .noOpcode => true | _ => false) &&
    (match decode [0x00] with | .error (.truncated b) => b == 0x00 | _ => false) &&
    (match decode [0x6C, 0xFF] with | .error (.truncated b) => b == 0x6C | _ => false) = true := by decide

/-- The table's numbering: the second byte is bits 15 to 8, and bits above nbits are 0. -/
theorem test_decodeTableWord :
    decodeTableWord 24 0x300FFF6C = some (.jmp (.indirect 0x0FFF)) ∧ decodeTableWord 8 0xFF00 = some .brk ∧
    decodeTableWord 8 0x02 = some (.undoc 0x02) := by decide

/-- The assembly text of S2, S4, S5, P3 and P5, and the branch displacements of S4 and R165. -/
theorem test_assembly_text :
    Instr.text 0x8000 (.lda (.immediate 0x05)) = some ['L', 'D', 'A', ' ', '#', '$', '0', '5'] ∧
    Instr.text 0x8000 (.sta (.absolute 0x0010)) = some ['S', 'T', 'A', ' ', '$', '0', '0', '1', '0'] ∧
    Instr.text 0x8000 (.sta (.indirectIndexed 0x10)) = some ['S', 'T', 'A', ' ', '(', '$', '1', '0', ')', ',', 'Y'] ∧
    Instr.text 0x8000 (.jmp (.indirect 0x30FF)) = some ['J', 'M', 'P', ' ', '(', '$', '3', '0', 'F', 'F', ')'] ∧
    Instr.text 0x8011 (.asl .accumulator) = some ['A', 'S', 'L', ' ', 'A'] ∧
    Instr.text 0x8007 .brk = some ['B', 'R', 'K'] ∧ Instr.text 0x8000 (.undoc 0x02) = none ∧
    Instr.text 0x10F0 (.beq 0x13) = some ['B', 'E', 'Q', ' ', '$', '1', '1', '0', '5'] ∧
    branchOperand 0x10F0 0x1105 = some 0x13 ∧ branchOperand 0x10F0 0x1072 = some 0x80 ∧
    branchOperand 0x10F0 0x1071 = none ∧ branchOperand 0x10F0 0x1200 = none := by decide +kernel

/-! ### Single steps -/

/-- The test vectors' flags where they say "all flags 0". -/
def noFlags : Flags := ⟨false, false, false, false, false, false, false⟩

/-- Every flag 1. -/
def allFlags : Flags := ⟨true, true, true, true, true, true, true⟩

/-- The test vectors' machine: SP = FD, no flag set, nothing recorded, the blank 32 KB cartridge. -/
def machine : State := { State.reset with sp := 0xFD, flags := noFlags, ioLog := [] }

/-- The state with bytes placed from an address on. -/
def place (a : Word) : List Byte → State → State
  | [], s => s
  | v :: vs, s => place (a + 1) vs (s.placeByte a v)

/-- The state that an outcome answers; a fault or refusal, which no step of this model answers, gives the reset state. -/
def stateOf (r : Result) : State :=
  match r with
  | .next t => t
  | _ => State.reset

/-- The state about to run the program at an address. -/
def start (pc : Word) (program : List Byte) (s : State) : State := place pc program { s with pc := pc }

/-- The state after one step of the program at an address. -/
def run (pc : Word) (program : List Byte) (s : State) : State := stateOf (step (start pc program s))

/-- V1: 7F + 01. -/
theorem test_adc_signed_overflow :
    let t := run 0x8000 [0x69, 0x01] { machine with a := 0x7F }
    (t.a, t.flags.c, t.flags.z, t.flags.v, t.flags.n, t.cycles) =
      (0x80, false, false, true, true, 2) := by decide +kernel

/-- V1: FF + FF + 1, with D set (R202). -/
theorem test_adc_carry_in_largest :
    let t := run 0x8000 [0x69, 0xFF] { machine with a := 0xFF, flags := { noFlags with c := true, d := true } }
    (t.a, t.flags.c, t.flags.z, t.flags.v, t.flags.n, t.cycles) =
      (0xFF, true, false, false, true, 2) := by decide +kernel

/-- V2: 80 - 01. -/
theorem test_sbc_signed_overflow :
    let t := run 0x8000 [0xE9, 0x01] { machine with a := 0x80, flags := { noFlags with c := true } }
    (t.a, t.flags.c, t.flags.z, t.flags.v, t.flags.n, t.cycles) =
      (0x7F, true, false, true, false, 2) := by decide +kernel

/-- V2: 00 - 00 with a borrow in. -/
theorem test_sbc_borrow :
    let t := run 0x8000 [0xE9, 0x00] { machine with a := 0x00 }
    (t.a, t.flags.c, t.flags.z, t.flags.v, t.flags.n, t.cycles) =
      (0xFF, false, false, false, true, 2) := by decide +kernel

/-- V3. -/
theorem test_and :
    let t := run 0x8000 [0x29, 0x80] { machine with a := 0xFF, flags := { noFlags with c := true, v := true } }
    (t.a, t.flags.c, t.flags.z, t.flags.v, t.flags.n, t.cycles) =
      (0x80, true, false, true, true, 2) := by decide +kernel

/-- V3. -/
theorem test_ora :
    let t := run 0x8000 [0x09, 0xF0] { machine with a := 0x0F, flags := { noFlags with c := true, v := true } }
    (t.a, t.flags.c, t.flags.z, t.flags.v, t.flags.n, t.cycles) =
      (0xFF, true, false, true, true, 2) := by decide +kernel

/-- V3. -/
theorem test_eor :
    let t := run 0x8000 [0x49, 0xFF] { machine with a := 0xFF, flags := { noFlags with c := true, v := true } }
    (t.a, t.flags.c, t.flags.z, t.flags.v, t.flags.n, t.cycles) =
      (0x00, true, true, true, false, 2) := by decide +kernel

/-- V4, row 3. -/
theorem test_bit_zero_and_negative :
    let t := run 0x8000 [0x24, 0x10] { machine with a := 0x00, ram := [(0x10, 0xFF)] }
    (t.a, t.flags.c, t.flags.z, t.flags.v, t.flags.n, t.cycles) =
      (0x00, false, true, true, true, 3) := by decide +kernel

/-- V4, row 2. -/
theorem test_bit_bit6 :
    let t := run 0x8000 [0x24, 0x10] { machine with a := 0xFF, ram := [(0x10, 0x40)] }
    (t.a, t.flags.c, t.flags.z, t.flags.v, t.flags.n, t.cycles) =
      (0xFF, false, false, true, false, 3) := by decide +kernel

/-- V5. -/
theorem test_asl_accumulator :
    let t := run 0x8000 [0x0A] { machine with a := 0x41, flags := { noFlags with c := true } }
    (t.a, t.flags.c, t.flags.z, t.flags.n, t.cycles) = (0x82, false, false, true, 2) := by decide +kernel

/-- V5. -/
theorem test_lsr_accumulator :
    let t := run 0x8000 [0x4A] { machine with a := 0x01, flags := { noFlags with c := true } }
    (t.a, t.flags.c, t.flags.z, t.flags.n, t.cycles) = (0x00, true, true, false, 2) := by decide +kernel

/-- V5. -/
theorem test_rol_accumulator :
    let t := run 0x8000 [0x2A] { machine with a := 0x80, flags := { noFlags with c := true } }
    (t.a, t.flags.c, t.flags.z, t.flags.n, t.cycles) = (0x01, true, false, false, 2) := by decide +kernel

/-- V5. -/
theorem test_ror_accumulator :
    let t := run 0x8000 [0x6A] { machine with a := 0x01, flags := { noFlags with c := true } }
    (t.a, t.flags.c, t.flags.z, t.flags.n, t.cycles) = (0x80, true, false, true, 2) := by decide +kernel

/-- V6: a page is crossed and costs nothing. -/
theorem test_asl_absolute_x :
    let t := run 0x8000 [0x1E, 0xFF, 0x02]
        { machine with x := 0x01, ram := [(0x300, 0x40)], flags := { noFlags with c := true } }
    (t.ramRead 0x0300, t.flags.c, t.flags.z, t.flags.n, t.cycles) = (0x80, false, false, true, 7) := by decide +kernel

/-- V6. -/
theorem test_lsr_zero_page :
    let t := run 0x8000 [0x46, 0x20] { machine with ram := [(0x20, 0xFF)], flags := { noFlags with c := true } }
    (t.ramRead 0x0020, t.flags.c, t.flags.z, t.flags.n, t.cycles) = (0x7F, true, false, false, 5) := by decide +kernel

/-- V6. -/
theorem test_ror_zero_page :
    let t := run 0x8000 [0x66, 0x20] { machine with ram := [(0x20, 0x01)], flags := { noFlags with c := true } }
    (t.ramRead 0x0020, t.flags.c, t.flags.z, t.flags.n, t.cycles) = (0x80, true, false, true, 5) := by decide +kernel

/-- V6. -/
theorem test_inc_zero_page :
    let t := run 0x8000 [0xE6, 0x20] { machine with ram := [(0x20, 0xFF)], flags := { noFlags with c := true } }
    (t.ramRead 0x0020, t.flags.c, t.flags.z, t.flags.n, t.cycles) = (0x00, true, true, false, 5) := by decide +kernel

/-- V6. -/
theorem test_dec_zero_page :
    let t := run 0x8000 [0xC6, 0x20] { machine with ram := [(0x20, 0x00)], flags := { noFlags with c := true } }
    (t.ramRead 0x0020, t.flags.c, t.flags.z, t.flags.n, t.cycles) = (0xFF, true, false, true, 5) := by decide +kernel

/-- V7. -/
theorem test_inx :
    let t := run 0x8000 [0xE8] { machine with x := 0xFF }
    (t.x, t.flags.z, t.flags.n, t.cycles) = (0x00, true, false, 2) := by decide +kernel

/-- V7. -/
theorem test_iny :
    let t := run 0x8000 [0xC8] { machine with y := 0xFF }
    (t.y, t.flags.z, t.flags.n, t.cycles) = (0x00, true, false, 2) := by decide +kernel

/-- V7. -/
theorem test_dex :
    let t := run 0x8000 [0xCA] { machine with x := 0x00 }
    (t.x, t.flags.z, t.flags.n, t.cycles) = (0xFF, false, true, 2) := by decide +kernel

/-- V7. -/
theorem test_dey :
    let t := run 0x8000 [0x88] { machine with y := 0x80 }
    (t.y, t.flags.z, t.flags.n, t.cycles) = (0x7F, false, false, 2) := by decide +kernel

/-- V8: 00 - FF. -/
theorem test_cmp_less :
    let t := run 0x8000 [0xC9, 0xFF] { machine with a := 0x00, flags := { noFlags with v := true } }
    (t.a, t.flags.c, t.flags.z, t.flags.v, t.flags.n, t.cycles) =
      (0x00, false, false, true, false, 2) := by decide +kernel

/-- V8. -/
theorem test_cmp_equal :
    let t := run 0x8000 [0xC9, 0x10] { machine with a := 0x10 }
    (t.a, t.flags.c, t.flags.z, t.flags.v, t.flags.n, t.cycles) =
      (0x10, true, true, false, false, 2) := by decide +kernel

/-- V8. -/
theorem test_cpx :
    let t := run 0x8000 [0xE0, 0x10] { machine with x := 0x20 }
    (t.x, t.flags.c, t.flags.z, t.flags.n) = (0x20, true, false, false) := by decide +kernel

/-- V8. -/
theorem test_cpy :
    let t := run 0x8000 [0xC0, 0x00] { machine with y := 0x00 }
    (t.y, t.flags.c, t.flags.z, t.flags.n) = (0x00, true, true, false) := by decide +kernel

/-- V9. -/
theorem test_clc :
    let t := run 0x8000 [0x18] { machine with flags := { noFlags with c := true, z := true } }
    (t.flags, t.cycles) = ({ noFlags with z := true }, 2) := by decide +kernel

/-- V9. -/
theorem test_sec :
    let t := run 0x8000 [0x38] { machine with flags := { noFlags with n := true } }
    (t.flags, t.cycles) = ({ noFlags with c := true, n := true }, 2) := by decide +kernel

/-- V9, P4: the pending IRQ is masked at this step. -/
theorem test_cli :
    let t := run 0x8000 [0x58] { machine with flags := { noFlags with i := true }, irqPending := true }
    (t.flags, t.pc, t.irqPending) = (noFlags, 0x8001, true) := by decide +kernel

/-- V9. -/
theorem test_sei :
    let t := run 0x8000 [0x78] { machine with flags := { noFlags with d := true } }
    (t.flags, t.cycles) = ({ noFlags with i := true, d := true }, 2) := by decide +kernel

/-- V9. -/
theorem test_cld :
    let t := run 0x8000 [0xD8] { machine with flags := { noFlags with d := true, v := true } }
    (t.flags, t.cycles) = ({ noFlags with v := true }, 2) := by decide +kernel

/-- V9: GET_SR has bits 3 and 5. -/
theorem test_sed :
    let t := run 0x8000 [0xF8] machine
    (t.flags.getSr, t.cycles) = (0x28, 2) := by decide +kernel

/-- V9. -/
theorem test_clv :
    let t := run 0x8000 [0xB8] { machine with flags := { noFlags with c := true, v := true } }
    (t.flags, t.cycles) = ({ noFlags with c := true }, 2) := by decide +kernel

/-- V10. -/
theorem test_tax :
    let t := run 0x8000 [0xAA] { machine with a := 0x80 }
    (t.x, t.flags.z, t.flags.n, t.cycles) = (0x80, false, true, 2) := by decide +kernel

/-- V10. -/
theorem test_tay :
    let t := run 0x8000 [0xA8] { machine with a := 0x00, y := 0x01 }
    (t.y, t.flags.z, t.flags.n, t.cycles) = (0x00, true, false, 2) := by decide +kernel

/-- V10. -/
theorem test_txa :
    let t := run 0x8000 [0x8A] { machine with x := 0x7F }
    (t.a, t.flags.z, t.flags.n, t.cycles) = (0x7F, false, false, 2) := by decide +kernel

/-- V10. -/
theorem test_tya :
    let t := run 0x8000 [0x98] { machine with y := 0xFF }
    (t.a, t.flags.z, t.flags.n, t.cycles) = (0xFF, false, true, 2) := by decide +kernel

/-- V10. -/
theorem test_tsx :
    let t := run 0x8000 [0xBA] machine
    (t.x, t.flags.z, t.flags.n, t.cycles) = (0xFD, false, true, 2) := by decide +kernel

/-- V10. -/
theorem test_txs_writes_no_flag :
    let t := run 0x8000 [0x9A] { machine with x := 0x00, flags := { noFlags with n := true } }
    (t.sp, t.flags.z, t.flags.n, t.cycles) = (0x00, false, true, 2) := by decide +kernel

/-- V11. -/
theorem test_lda_immediate :
    let t := run 0x8000 [0xA9, 0x00] { machine with a := 0x01 }
    (t.a, t.flags.z, t.flags.n, t.cycles) = (0x00, true, false, 2) := by decide +kernel

/-- V12. -/
theorem test_lda_absolute_x_crosses :
    let t := run 0x8000 [0xBD, 0xFF, 0x12] { machine with x := 0x01, ram := [(0x300, 0x99)] }
    (t.a, t.flags.z, t.flags.n, t.cycles) = (0x99, false, true, 5) := by decide +kernel

/-- V12. -/
theorem test_ldx_zero_page_y_wraps :
    let t := run 0x8000 [0xB6, 0xFF] { machine with y := 0x02, ram := [(0x001, 0x42)] }
    (t.x, t.flags.z, t.flags.n, t.cycles) = (0x42, false, false, 4) := by decide +kernel

/-- V11. -/
theorem test_ldx_immediate :
    let t := run 0x8000 [0xA2, 0xFF] machine
    (t.x, t.flags.z, t.flags.n, t.cycles) = (0xFF, false, true, 2) := by decide +kernel

/-- V11. -/
theorem test_ldy_immediate :
    let t := run 0x8000 [0xA0, 0x00] { machine with y := 0x01 }
    (t.y, t.flags.z, t.flags.n, t.cycles) = (0x00, true, false, 2) := by decide +kernel

/-- V11: 0x0800 is cell 0, and a store takes no penalty. -/
theorem test_sta_absolute_y_mirror :
    let t := run 0x8000 [0x99, 0xFF, 0x07] { machine with a := 0x77, y := 0x01 }
    (t.ram, t.cycles, t.flags) = ([(0x000, 0x77)], 5, noFlags) := by decide +kernel

/-- V12. -/
theorem test_sta_indirect_indexed :
    let t := run 0x8000 [0x91, 0x10] { machine with a := 0x5A, y := 0x01, ram := [(0x010, 0xFF), (0x011, 0x07)] }
    (t.ram, t.cycles) = ([(0x000, 0x5A), (0x010, 0xFF), (0x011, 0x07)], 6) := by decide +kernel

/-- V11. -/
theorem test_stx_zero_page_y_wraps :
    let t := run 0x8000 [0x96, 0xFF] { machine with x := 0x33, y := 0x02 }
    (t.ram, t.cycles) = ([(0x001, 0x33)], 4) := by decide +kernel

/-- V11. -/
theorem test_sty_absolute :
    let t := run 0x8000 [0x8C, 0x00, 0x02] { machine with y := 0x33 }
    (t.ram, t.cycles) = ([(0x200, 0x33)], 4) := by decide +kernel

/-- V12. -/
theorem test_mode_indexed_indirect_wraps :
    let t := run 0x8000 [0xA1, 0xFE] { machine with x := 0x01, ram := [(0x000, 0x02), (0x0FF, 0x34), (0x234, 0x5B)] }
    (t.a, t.cycles) = (0x5B, 6) := by decide +kernel

/-- V12. -/
theorem test_mode_indirect_indexed_wraps_and_crosses :
    let t := run 0x8000 [0xB1, 0xFF] { machine with y := 0x10, ram := [(0x000, 0x03), (0x0FF, 0xF8), (0x408, 0x66)] }
    (t.a, t.cycles) = (0x66, 6) := by decide +kernel

/-- V12. -/
theorem test_mode_absolute_x_wraps_the_address_space :
    let t := run 0x8000 [0xBD, 0xFF, 0xFF] { machine with x := 0x01, ram := [(0x000, 0x11)] }
    (t.a, t.cycles) = (0x11, 5) := by decide +kernel

/-- V13. -/
theorem test_bcc_taken :
    let t := run 0x8000 [0x90, 0x0E] machine
    (t.pc, t.cycles) = (0x8010, 3) := by decide +kernel

/-- V13. -/
theorem test_bcc_backward_same_page :
    let t := run 0x0080 [0x90, 0x80] machine
    (t.pc, t.cycles) = (0x0002, 3) := by decide +kernel

/-- V13. -/
theorem test_bcs_not_taken :
    let t := run 0x8000 [0xB0, 0x0E] machine
    (t.pc, t.cycles) = (0x8002, 2) := by decide +kernel

/-- S4, as C5 corrects it. -/
theorem test_beq_crosses :
    let t := run 0x10F0 [0xF0, 0x13] { machine with flags := { noFlags with z := true } }
    (t.pc, t.cycles) = (0x1105, 4) := by decide +kernel

/-- S4. -/
theorem test_beq_same_page :
    let t := run 0x10F0 [0xF0, 0x80] { machine with flags := { noFlags with z := true } }
    (t.pc, t.cycles) = (0x1072, 3) := by decide +kernel

/-- V13: taken to where it would go anyway. -/
theorem test_bne_displacement_zero :
    let t := run 0x80FD [0xD0, 0x00] machine
    (t.pc, t.cycles) = (0x80FF, 3) := by decide +kernel

/-- V13. -/
theorem test_bmi_backward_across :
    let t := run 0x1000 [0x30, 0x80] { machine with flags := { noFlags with n := true } }
    (t.pc, t.cycles) = (0x0F82, 4) := by decide +kernel

/-- V13. -/
theorem test_bpl_wraps :
    let t := run 0xFFF0 [0x10, 0x20] machine
    (t.pc, t.cycles) = (0x0012, 4) := by decide +kernel

/-- V13. -/
theorem test_bvc_taken :
    let t := run 0x8000 [0x50, 0x00] machine
    (t.pc, t.cycles) = (0x8002, 3) := by decide +kernel

/-- V13. -/
theorem test_bvs_backward_across :
    let t := run 0x8000 [0x70, 0x80] { machine with flags := { noFlags with v := true } }
    (t.pc, t.cycles) = (0x7F82, 4) := by decide +kernel

/-- V14. -/
theorem test_jmp_absolute :
    let t := run 0x8000 [0x4C, 0x00, 0x90] machine
    (t.pc, t.cycles) = (0x9000, 3) := by decide +kernel

/-- S2. -/
theorem test_jmp_indirect_page_wrap :
    let t := run 0x8000 [0x6C, 0xFF, 0x02] { machine with ram := [(0x200, 0x90), (0x2FF, 0x00), (0x300, 0xA0)] }
    (t.pc, t.cycles) = (0x9000, 5) := by decide +kernel

/-- V14. -/
theorem test_jsr :
    let t := run 0x8000 [0x20, 0x00, 0x90] { machine with sp := 0xFF }
    (t.ram, t.sp, t.pc, t.cycles) = ([(0x1FE, 0x02), (0x1FF, 0x80)], 0xFD, 0x9000, 6) := by decide +kernel

/-- V14. -/
theorem test_jsr_wraps_the_stack :
    let t := run 0x8000 [0x20, 0x00, 0x90] { machine with sp := 0x00 }
    (t.ram, t.sp) = ([(0x100, 0x80), (0x1FF, 0x02)], 0xFE) := by decide +kernel

/-- V14. -/
theorem test_rts :
    let t := run 0x9000 [0x60] { machine with ram := [(0x1FE, 0x02), (0x1FF, 0x80)] }
    (t.pc, t.sp, t.cycles) = (0x8003, 0xFF, 6) := by decide +kernel

/-- V14. -/
theorem test_brk :
    let t := run 0x8000 [0x00, 0xAA] (place 0xFFFE [0x00, 0x90]
        { machine with flags := { noFlags with c := true, n := true } })
    (t.ram, t.sp, t.pc, t.flags, t.cycles) =
      ([(0x1FB, 0xB1), (0x1FC, 0x02), (0x1FD, 0x80)], 0xFA, 0x9000, { noFlags with c := true, i := true, n := true }, 7) := by decide +kernel

/-- V14. -/
theorem test_rti :
    let t := run 0x9000 [0x40]
        { machine with sp := 0xFA, ram := [(0x1FB, 0xB1), (0x1FC, 0x02), (0x1FD, 0x80)], flags := { noFlags with i := true } }
    (t.flags, t.pc, t.sp, t.cycles) =
      ({ noFlags with c := true, b := true, n := true }, 0x8002, 0xFD, 6) := by decide +kernel

/-- V15. -/
theorem test_pha_wraps :
    let t := run 0x8000 [0x48] { machine with a := 0x5C, sp := 0x00 }
    (t.ram, t.sp, t.cycles) = ([(0x100, 0x5C)], 0xFF, 3) := by decide +kernel

/-- V15. -/
theorem test_php_pushes_bits_4_and_5 :
    let t := run 0x8000 [0x08] machine
    (t.ram, t.sp, t.flags.b, t.cycles) = ([(0x1FD, 0x30)], 0xFC, false, 3) := by decide +kernel

/-- V15. -/
theorem test_pla_wraps :
    let t := run 0x8000 [0x68] { machine with a := 0x00, sp := 0xFF, ram := [(0x100, 0x5C)] }
    (t.a, t.sp, t.flags.z, t.flags.n, t.cycles) = (0x5C, 0x00, false, false, 4) := by decide +kernel

/-- V15. -/
theorem test_plp_all_flags :
    let t := run 0x8000 [0x28] { machine with sp := 0xFC, ram := [(0x1FD, 0xFF)] }
    (t.flags, t.flags.getSr, t.sp, t.cycles) = (allFlags, 0xFF, 0xFD, 4) := by decide +kernel

/-- V16. -/
theorem test_nop_wraps_pc :
    let t := run 0xFFFF [0xEA] machine
    (t.pc, t.cycles) = (0x0000, 2) := by decide +kernel

/-- V16. -/
theorem test_undoc_is_one_byte :
    let t := run 0x8000 [0xFF, 0x69, 0x01] { machine with a := 0x7F }
    (t.pc, t.a, t.flags, t.cycles, t.undocExecuted) = (0x8001, 0x7F, noFlags, 2, true) := by decide +kernel

/-- V17: bit 4 is pushed as 0 although B is 1. -/
theorem test_nmi_entry :
    let t := run 0x8000 [] (place 0xFFFA [0x00, 0xA0]
        { machine with flags := { noFlags with b := true }, nmiPending := true, irqPending := true })
    (t.ram, t.sp, t.pc, t.flags, t.nmiPending, t.irqPending, t.cycles) =
      ([(0x1FB, 0x20), (0x1FC, 0x00), (0x1FD, 0x80)], 0xFA, 0xA000, { noFlags with i := true, b := true }, false, true, 7) := by decide +kernel

/-- V17. -/
theorem test_irq_entry :
    let t := run 0x8001 [] (place 0xFFFE [0x00, 0x90] { machine with irqPending := true })
    (t.ram, t.sp, t.pc, t.flags, t.nmiPending, t.irqPending, t.cycles) =
      ([(0x1FB, 0x20), (0x1FC, 0x01), (0x1FD, 0x80)], 0xFA, 0x9000, { noFlags with i := true }, false, false, 7) := by decide +kernel

/-- V17. -/
theorem test_irq_masked :
    let t := run 0x8000 [0xEA] { machine with flags := { noFlags with i := true }, irqPending := true }
    (t.pc, t.irqPending, t.cycles) = (0x8001, true, 2) := by decide +kernel

/-- V18: 0x4020 has no handler on the NROM-style mapper. -/
theorem test_unmapped_read_faults :
    let t := run 0x8000 [0xAD, 0x20, 0x40] machine
    t.fault = some 0x4020 := by decide +kernel

/-- R82. -/
theorem test_unmapped_write_does_not_fault :
    let t := run 0x8000 [0x8D, 0x20, 0x40] machine
    (t.fault, t.cycles) = (none, 4) := by decide +kernel

/-- V18. -/
theorem test_io_write_is_recorded :
    let t := run 0x8000 [0x8D, 0x15, 0x40] { machine with a := 0x0F }
    (t.ioLog, t.fault) = ([.write 0x4015 0x0F], none) := by decide +kernel

/-- V18. -/
theorem test_rom_write_is_ignored :
    let t := run 0x8000 [0x8D, 0x00, 0x90] { machine with a := 0x0F }
    (t.byteAt 0x9000, t.cycles) = (some 0x00, 4) := by decide +kernel

/-- The opcodes that take the page-cross penalty, as the table's page_penalty column lists them (R155): each costs 1 more
than its base where every index crosses a page; no other non-branch opcode costs more than its base. -/
theorem test_page_penalty_column :
    ((List.range 256).filter fun n =>
      let i := Instr.ofBytes (BitVec.ofNat 8 n) 0x80 0x02
      let s := { machine with x := 0xFF, y := 0xFF, ram := [(0x07F, 0x80), (0x080, 0x80), (0x081, 0x02)], flags := allFlags }
      i.mode != .relative && (stateOf (exec i s)).cycles != i.baseCycles) =
    [0x11, 0x19, 0x1D, 0x31, 0x39, 0x3D, 0x51, 0x59, 0x5D, 0x71, 0x79, 0x7D] ++
    [0xB1, 0xB9, 0xBC, 0xBD, 0xBE, 0xD1, 0xD9, 0xDD, 0xF1, 0xF9, 0xFD] := by decide +kernel

/-- The host's load: the word is the next instruction that a step from reset runs (log entry 1). -/
theorem test_withFetchWord_runs_next :
    (stateOf (step (State.reset.withFetchWord 24 0x00128D))).ram = [(0x000, 0x8D), (0x001, 0x12), (0x002, 0x00), (0x012, 0x00)] ∧
    (stateOf (step (State.reset.withFetchWord 16 0x7FA9))).a = 0x7F := by decide +kernel

/-! ### Witnesses: for each statement with hypotheses, a state and operands that meet all of them together -/

/-- The machine with an NMI and an IRQ to take. -/
def nmiMachine : State := start 0x8000 [0xEA] { machine with nmiPending := true, irqPending := true }

/-- The machine with an IRQ to take. -/
def irqMachine : State := start 0x8000 [0xEA] { machine with irqPending := true }

/-- The machine with PRG-RAM, for a cartridge window that stores. -/
def ramMachine : State := { machine with mapper := .nrom ⟨.kb16, [], true, []⟩ }

theorem test_witness_DecodeEncodeRoundTrip_BaseCyclesByClassAndMode :
    (Instr.sbc (.memory (.absoluteY 0x12FF))).wellFormed = true := by decide

theorem test_witness_EncodeDecodeRoundTrip :
    decode [0x69, 0x02, 0xEA] = .ok (.adc (.immediate 0x02), [0xEA]) ∧ decode [0x00, 0xAA] = .ok (.brk, []) :=
  ⟨rfl, rfl⟩

theorem test_witness_UndocumentedBytesDecode :
    0x02 ∈ undocumentedBytes ∧ 0xFF ∈ undocumentedBytes ∧ decode [0xFF, 0x69] = .ok (.undoc 0xFF, [0x69]) :=
  ⟨by decide, by decide, rfl⟩

/-- With the three operand counts, in RAM and across the top of the address space. -/
theorem test_witness_StepRunsDecodedInstruction :
    (let s := start 0xFFFE [0x8D, 0x34, 0x12] machine
     s.quiet = true ∧ decode [0x8D, 0x34, 0x12] = .ok (.sta (.absolute 0x1234), []) ∧
     codeByte s 0xFFFE 0x8D ∧ codeByte s 0xFFFF 0x34 ∧ codeByte s 0x0000 0x12) ∧
    (let s := start 0x0300 [0x00] machine
     s.quiet = true ∧ codeByte s 0x0300 0x00 ∧ ¬ 1 ≤ Instr.brk.operandBytes) ∧
    (let s := start 0x8000 [0xA9, 0x05] machine
     s.quiet = true ∧ codeByte s 0x8000 0xA9 ∧ codeByte s 0x8001 0x05 ∧ (Instr.lda (.immediate 0x05)).operandBytes = 1) :=
  ⟨⟨by decide +kernel, rfl, ⟨by decide +kernel, fun _ => ⟨_, rfl⟩⟩, ⟨by decide +kernel, fun _ => ⟨_, rfl⟩⟩,
      ⟨by decide +kernel, fun _ => ⟨_, rfl⟩⟩⟩,
    ⟨by decide +kernel, ⟨by decide +kernel, fun _ => ⟨_, rfl⟩⟩, by decide⟩,
    ⟨by decide +kernel, ⟨by decide +kernel, fun _ => ⟨_, rfl⟩⟩, ⟨by decide +kernel, fun _ => ⟨_, rfl⟩⟩, rfl⟩⟩

/-- The machine with an IRQ that I masks, and so an instruction to run. -/
def maskedMachine : State := { irqMachine with flags := { irqMachine.flags with i := true } }

theorem test_witness_StepOrderAndFetch :
    (nmiMachine.running = true ∧ nmiMachine.nmiPending = true) ∧
    (irqMachine.running = true ∧ irqMachine.nmiPending = false ∧ irqMachine.irqPending = true ∧
      irqMachine.flags.i = false) ∧
    (let s := start 0x8000 [0x6C, 0xFF, 0x02] machine
     s.quiet = true ∧ s.memRead s.pc = .done 0x6C s ∧ s.memRead (s.pc + 1) = .done 0xFF s ∧
     s.memRead (s.pc + 2) = .done 0x02 s ∧ (Instr.ofBytes 0x6C 0 0).operandBytes = 2) ∧
    (Instr.ofBytes 0xA9 0 0).operandBytes = 1 ∧ (Instr.ofBytes 0x00 0 0).operandBytes = 0 := by decide +kernel

/-- The boundary 0x4020, and a PC there. -/
theorem test_witness_UnmappedFaultIsFatal :
    (let s := start 0x4020 [] machine
     0x4020 ≤ (0x4020 : Word).toNat ∧ s.mapper.answer 0x4020 = none ∧ s.fault = none ∧ s.quiet = true ∧
     0x4020 ≤ s.pc.toNat ∧ s.mapper.answer s.pc = none) ∧
    ({ machine with fault := some 0x4020 } : State).fault = some 0x4020 := by decide +kernel

/-- The edge 0x401F, 0x4020: with PC at 0x401F the opcode is a draw and the next byte is unmapped, so one of the two clauses by
the number of operand bytes holds; with PC at 0x401E the first operand byte is a draw and the second is unmapped. -/
theorem test_witness_UnmappedFaultIsFatal_operands :
    (let s : State := { machine with pc := 0x401F }
     s.quiet = true ∧ ∃ opcode s1 t, s.memRead s.pc = .done opcode s1 ∧ s1.memRead (s.pc + 1) = .faulted t ∧
       ((Instr.ofBytes opcode 0 0).operandBytes = 0 ∨ 1 ≤ (Instr.ofBytes opcode 0 0).operandBytes)) ∧
    (let s : State := { machine with pc := 0x401E }
     s.quiet = true ∧ ∃ opcode s1 op1 s2 t, s.memRead s.pc = .done opcode s1 ∧ s1.memRead (s.pc + 1) = .done op1 s2 ∧
       s2.memRead (s.pc + 2) = .faulted t) :=
  ⟨⟨by decide +kernel, _, _, _, rfl, rfl, Nat.eq_zero_or_pos _⟩, ⟨by decide +kernel, _, _, _, _, _, rfl, rfl, rfl⟩⟩

/-- If those draws give LDA immediate, NOP and LDA absolute, each clause by the number of operand bytes has its case. -/
theorem test_witness_UnmappedFaultIsFatal_counts (s : State) (ha : Config.ioRead s.draws 0x401F = 0xA9)
    (hb : Config.ioRead (s.draws + 1) 0x401F = 0xEA) (hc : Config.ioRead s.draws 0x401E = 0xAD) :
    (s.memRead 0x401F = .done 0xA9 (s.ioRead 0x401F).2 ∧ 1 ≤ (Instr.ofBytes 0xA9 0 0).operandBytes) ∧
    ({ s with draws := s.draws + 1 }.memRead 0x401F = .done 0xEA ({ s with draws := s.draws + 1 }.ioRead 0x401F).2 ∧
      (Instr.ofBytes 0xEA 0 0).operandBytes = 0) ∧
    (s.memRead 0x401E = .done 0xAD (s.ioRead 0x401E).2 ∧ (Instr.ofBytes 0xAD 0 0).operandBytes = 2) := by
  refine ⟨⟨?_, by decide⟩, ⟨?_, by decide⟩, ⟨?_, by decide⟩⟩
  · rw [← ha]; rfl
  · rw [← hb]; rfl
  · rw [← hc]; rfl

/-- The entries of NMI and IRQ; the clause of a vector that no handler serves needs a mapper that is not NROM-style. -/
theorem test_witness_NmiEntryEffect_IrqEntryEffect :
    (nmiMachine.running = true ∧ nmiMachine.nmiPending = true ∧ nmiMachine.mapper = .nrom ⟨.kb32, [(0, 0xEA)], false, []⟩ ∧
      (framed nmiMachine (nmiMachine.flags.getSr &&& 0xEF)).readWord 0xFFFA =
        .done 0x0000 (framed nmiMachine (nmiMachine.flags.getSr &&& 0xEF))) ∧
    (irqMachine.running = true ∧ irqMachine.nmiPending = false ∧ irqMachine.irqPending = true ∧
      irqMachine.flags.i = false ∧ irqMachine.mapper = .nrom ⟨.kb32, [(0, 0xEA)], false, []⟩ ∧
      (framed irqMachine (irqMachine.flags.getSr &&& 0xEF)).readWord 0xFFFE =
        .done 0x0000 (framed irqMachine (irqMachine.flags.getSr &&& 0xEF))) := by decide +kernel

/-- No entry: an IRQ that I masks, and no IRQ with I clear and with I set. -/
theorem test_witness_IrqEntryEffect_not_taken :
    (maskedMachine.running = true ∧ maskedMachine.nmiPending = false ∧ maskedMachine.irqPending = true ∧
      maskedMachine.flags.i = true) ∧
    (machine.running = true ∧ machine.nmiPending = false ∧ machine.irqPending = false ∧ machine.flags.i = false) ∧
    (stateOf (step maskedMachine)).pc = 0x8001 := by decide +kernel

theorem test_witness_BrkEffect :
    machine.mapper = .nrom ⟨.kb32, [], false, []⟩ ∧
    (framed machine (machine.flags.getSr ||| 0x10)).readWord 0xFFFE =
      .done 0x0000 (framed machine (machine.flags.getSr ||| 0x10)) := by decide +kernel

/-- A device that serves no vector: every state with such a mapper meets the fault clauses of the entries, BRK and Reset. -/
theorem test_witness_vector_fault (s : State) (vector : Word) (served : List MapAccess)
    (hv : handlerOf vector = .mapper) (hm : s.mapper = .other served) (hn : Config.mapRead served vector = none) :
    ∃ t, s.readWord vector = .faulted t := by
  have h : s.mapper.answer vector = none := by rw [hm]; exact hn
  exact ⟨(s.setMapper (s.mapper.afterRead vector)).raiseFault vector,
    by simp [State.readWord, State.readPair, State.memRead, hv, h, Access.bind]⟩

theorem test_witness_ExceptionFrameOnStack_RtiResumesInterruptedProgram_LatchesClearedOnlyByEntries :
    SafeStep nmiMachine (stateOf (step nmiMachine)) ∧ SafeStep irqMachine (stateOf (step irqMachine)) ∧
    exec .brk machine = .next (stateOf (exec .brk machine)) ∧ (stateOf (exec .brk machine)).running = true :=
  ⟨⟨rfl, by decide +kernel⟩, ⟨rfl, by decide +kernel⟩, rfl, by decide +kernel⟩

theorem test_witness_StepKeepsMemoriesCanonical_CyclesOfAStep :
    let s := start 0x8000 [0xFE, 0xFF, 0x5F] { ramMachine with x := 0x01, ram := [(0x010, 0x07)] }
    s.wf = true ∧ s.running = true ∧ step s = .next (stateOf (step s)) ∧ (stateOf (step s)).running = true :=
  ⟨by decide +kernel, by decide +kernel, rfl, by decide +kernel⟩

theorem test_witness_ResetEffect_PowerUpEffect :
    let clear : IoAddress := ⟨0x401F, by decide⟩
    let s1 : State := { machine with
      sp := machine.sp - 3, flags := { machine.flags with i := true }, ioLog := .write clear.value 0x00 :: machine.ioLog }
    s1.readWord 0xFFFC = .done 0x0000 s1 ∧ machine.mapper = .nrom ⟨.kb32, [], false, []⟩ ∧
    (0x1FFF : Word).toNat < 0x2000 := by decide +kernel

/-- The edges of the clauses of the word write. -/
theorem test_witness_HostOperations :
    (0x1FFE : Word).toNat + 1 < 0x2000 ∧ 0x2000 ≤ (0x2000 : Word).toNat ∧ (0x401E : Word).toNat + 1 < 0x4020 := by decide

/-- A word write at the edge of RAM and the I/O port, within the port (low byte first; the log has the latest first), and at
0xFFFF, where PRG-ROM ignores the low byte and the high byte goes to RAM cell 0. -/
theorem test_word_write :
    ((machine.writeWord 0x1FFF 0x1234).ramRead 0x07FF = 0x34 ∧
      (machine.writeWord 0x1FFF 0x1234).ioLog = .write 0x2000 0x12 :: machine.ioLog) ∧
    (machine.writeWord 0x401E 0x1234).ioLog = .write 0x401F 0x12 :: .write 0x401E 0x34 :: machine.ioLog ∧
    (machine.writeWord 0xFFFF 0x1234).ramRead 0x0000 = 0x12 := by decide +kernel

/-- For the statements over one instruction, a step of exec from a running machine to a running one: a register form, a
store, a read-modify-write, a push, a branch, a load of the I/O port. -/
theorem test_witness_frames :
    [Instr.inx, .sta (.absolute 0x0200), .inc (.zeroPage 0x10), .pha, .bne 0x80, .lda (.memory (.absolute 0x2002)),
      .plp, .brk, .nop].all
      (fun i => machine.running && (stateOf (exec i machine)).running) = true ∧
    exec (.sta (.absolute 0x0200)) machine = .next (stateOf (exec (.sta (.absolute 0x0200)) machine)) ∧
    exec .inx machine = .next (stateOf (exec .inx machine)) ∧ exec .pha machine = .next (stateOf (exec .pha machine)) :=
  ⟨by decide +kernel, rfl, rfl, rfl⟩

theorem test_witness_StoresKeepOtherBytes_PushesKeepOtherBytes_OtherInstructionsKeepMemory :
    storedOf (.sta (.absolute 0x0200)) = some (.absolute 0x0200) ∧
    machine.resolve (.absolute 0x0200) = .done ⟨0x0200, false⟩ machine ∧
    ¬ ((0x0201 : Word) = 0x0200 ∨ (handlerOf 0x0201 = .ram ∧ handlerOf 0x0200 = .ram ∧ ramCell 0x0201 = ramCell 0x0200)) ∧
    0 < pushedBytes .pha ∧ ¬ (0x01FE : Word) = stackAddress machine.sp ∧ storedOf .inx = none ∧ pushedBytes .inx = 0 := by
  decide +kernel

theorem test_witness_writes_tables :
    writesC .nop = false ∧ writesZN .txs = false ∧ writesI .clc = false ∧ writesD .clc = false ∧ writesV .inx = false ∧
    restoresFlags .brk = false ∧ writesA .tax = false ∧ writesX .txa = false ∧ writesY .txa = false ∧
    writesSp .tsx = false ∧ writesPc .nop = false := by decide

theorem test_witness_DecimalFlagHasNoEffect_AdcResult_LoadResults :
    machine.load (.immediate 0x05) = .done ⟨0x05, false⟩ machine ∧
    exec (.adc (.immediate 0x05)) machine = .next (stateOf (exec (.adc (.immediate 0x05)) machine)) ∧
    exec (.sbc (.immediate 0x05)) machine = .next (stateOf (exec (.sbc (.immediate 0x05)) machine)) ∧
    (stateOf (exec (.adc (.immediate 0x05)) machine)).running = true ∧
    (stateOf (exec (.sbc (.immediate 0x05)) machine)).running = true :=
  ⟨rfl, rfl, rfl, by decide +kernel, by decide +kernel⟩

/-- A memory operand whose page is crossed, as every statement over a load has it. -/
theorem test_witness_loads :
    let s : State := { machine with x := 0x01, ram := [(0x300, 0x99)] }
    s.load (.memory (.absoluteX 0x02FF)) = .done ⟨0x99, true⟩ s := by decide +kernel

/-- The edges of the RAM window, and two cells that differ. -/
theorem test_witness_RamIsMirrored :
    (0x1FFF : Word).toNat < 0x2000 ∧ (0x07FF : Word).toNat < 0x2000 ∧
    (0x1FFF : Word).toNat % 0x800 = (0x07FF : Word).toNat % 0x800 ∧
    (0x0800 : Word).toNat % 0x800 ≠ (0x07FF : Word).toNat % 0x800 := by decide

/-- The edges of the three windows of the bus (R84), each window alone holding its own edges. -/
theorem test_witness_ByteReadByAddress_ByteWriteByAddress_IoReadsAreSeparateDraws :
    ((0x1FFF : Word).toNat < 0x2000 ∧ handlerOf 0x1FFF = .ram) ∧
    (0x2000 ≤ (0x2000 : Word).toNat ∧ handlerOf 0x2000 = .io) ∧
    ((0x401F : Word).toNat < 0x4020 ∧ handlerOf 0x401F = .io) ∧
    (0x4020 ≤ (0x4020 : Word).toNat ∧ handlerOf 0x4020 = .mapper ∧ machine.mapper.answer 0x4020 = none ∧
      machine.fault = none) ∧
    machine.mapper.answer 0xFFFF = some 0x00 := by decide +kernel

/-- A word that lies across the top of the address space, and a page-wrapped one. -/
theorem test_witness_WordReadsAreLittleEndian :
    let s : State := place 0xFFFF [0x34, 0x12] { machine with ram := [(0x200, 0x90), (0x2FF, 0x78)] }
    s.memRead 0xFFFF = .done 0x34 s ∧ s.memRead (0xFFFF + 1) = .done 0x12 s ∧ s.memRead 0x02FF = .done 0x78 s ∧
    s.memRead (wordOf (highByte 0x02FF) (lowByte 0x02FF + 1)) = .done 0x90 s ∧
    s.readWord 0xFFFF = .done 0x1234 s ∧ s.readWordPW 0x02FF = .done 0x9078 s := by decide +kernel

/-- The edges of the NROM-style windows (R540). -/
theorem test_witness_NromMapperContract :
    let r : Nrom := ⟨.kb16, [], true, []⟩
    r.prgSize = .kb16 ∧ 0x8000 ≤ (0xBFFF : Word).toNat ∧ (0xBFFF : Word).toNat < 0xC000 ∧
    0x6000 ≤ (0x7FFF : Word).toNat ∧ (0x7FFF : Word).toNat ≤ 0x7FFF ∧ r.hasPrgRam = true ∧ (Mapper.nrom r).wf = true ∧
    (0x5FFF : Word).toNat < 0x6000 ∧ r.read 0x5FFF = none ∧ (⟨.kb16, [], false, []⟩ : Nrom).read 0x6000 = none ∧
    (r.write 0x7FFF 0x5A).read 0x7FFF = some 0x5A := by decide +kernel

/-- The image's bytes at the edges of 16 and 32 KB, an unlisted byte, and PRG-RAM's edges. -/
theorem test_witness_NromMapperContract_image :
    (let r : Nrom := ⟨.kb16, [(0x0000, 0x11), (0x3FFF, 0x22)], true, [(0x0000, 0x33), (0x1FFF, 0x44)]⟩
     r.read 0x8000 = some 0x11 ∧ r.read 0xC000 = some 0x11 ∧ r.read 0xBFFF = some 0x22 ∧ r.read 0xFFFF = some 0x22 ∧
     r.read 0x8001 = some 0x00 ∧ r.prg.lookup 0x0001 = none ∧ r.read 0x6000 = some 0x33 ∧ r.read 0x7FFF = some 0x44 ∧
     r.prgRam.lookup 0x0001 = none) ∧
    (let r : Nrom := ⟨.kb32, [(0x0000, 0x11), (0x4000, 0x22), (0x7FFF, 0x33)], false, []⟩
     r.read 0x8000 = some 0x11 ∧ r.read 0xC000 = some 0x22 ∧ r.read 0xFFFF = some 0x33) := by decide +kernel

theorem test_witness_LoadsChangeOnlyThePorts_OperandLoad :
    let s : State := { machine with ram := [(0x010, 0x07)] }
    s.load (.memory (.zeroPage 0x10)) = .done ⟨0x07, false⟩ s ∧
    s.resolve (.zeroPage 0x10) = .done ⟨0x0010, false⟩ s ∧ codeByte s 0x0010 0x07 ∧ s.memRead 0x0010 = .done 0x07 s ∧
    ∃ t, s.memRead 0x4020 = .faulted t :=
  ⟨by decide +kernel, by decide +kernel, ⟨by decide +kernel, fun _ => ⟨_, rfl⟩⟩, by decide +kernel, ⟨_, rfl⟩⟩

theorem test_witness_OperandFaultEndsTheInstruction :
    sourceOf (.lda (.memory (.absolute 0x4020))) = some (.memory (.absolute 0x4020)) ∧
    (∃ t, machine.load (.memory (.absolute 0x4020)) = .faulted t) ∧
    modifiedOf (.inc (.absolute 0x7FFF)) = some (.absolute 0x7FFF) ∧
    machine.resolve (.absolute 0x7FFF) = .done ⟨0x7FFF, false⟩ machine ∧
    (∃ t, machine.memRead 0x7FFF = .faulted t) ∧ machine.fault = none ∧
    (∃ t u, machine.readWordPW 0x4020 = .faulted t ∧ machine.memRead 0x4020 = .faulted u) :=
  ⟨rfl, ⟨_, rfl⟩, rfl, rfl, ⟨_, rfl⟩, rfl, ⟨_, _, rfl, rfl⟩⟩

/-- A pointer whose own byte is read, from the I/O port, and whose high byte at 0x4020 is not. -/
theorem test_witness_OperandFaultEndsTheInstruction_high_byte :
    ∃ lo s1 t, machine.memRead 0x401F = .done lo s1 ∧ machine.readWordPW 0x401F = .faulted t ∧ t.fault = some 0x4020 :=
  ⟨_, _, _, rfl, rfl, rfl⟩

theorem test_witness_ShiftResults_MemoryStepResults :
    let s : State := { machine with x := 0x02, ram := [(0x001, 0x80)] }
    s.resolve (.zeroPageX 0xFF) = .done ⟨0x0001, false⟩ s ∧ s.memRead 0x0001 = .done 0x80 s := by decide +kernel

theorem test_witness_JumpResults :
    let s : State := { machine with ram := [(0x200, 0x90), (0x2FF, 0x00)] }
    s.readWordPW 0x02FF = .done 0x9000 s := by decide +kernel

end Sys2Proof.Tests
end

/-! PROOFS. Every step keeps the memories canonical (O17): the bus accesses, the shared shapes of a meaning, each instruction,
the fetch and the exception entries keep `State.wf`, and `step_cases` says that a step is made of these. -/

namespace Sys2Proof.Machine

/-! ### Accesses -/

/-- The state an access leaves, whether it answered or faulted, has every memory in canonical form. -/
def Access.Canonical {α : Type} : Access α → Prop
  | .done _ t => t.wf = true
  | .faulted t => t.wf = true

theorem Access.Canonical.bind {α β : Type} {r : Access α} {k : α → State → Access β} (hr : r.Canonical)
    (hk : ∀ v t, t.wf = true → (k v t).Canonical) : (r.bind k).Canonical := by
  cases r with
  | done v t => exact hk v t hr
  | faulted t => exact hr

theorem State.memRead_canonical {s : State} (h : s.wf = true) (a : Word) : (s.memRead a).Canonical := by
  have hread := State.wf_memRead (a := a) h
  cases e : s.memRead a <;> rw [e] at hread <;> exact hread

theorem State.readPair_canonical {s : State} (h : s.wf = true) (lo hi : Word) : (s.readPair lo hi).Canonical :=
  (State.memRead_canonical h lo).bind fun _ _ h1 => (State.memRead_canonical h1 hi).bind fun _ _ h2 => h2

theorem State.loadAddress_canonical {s : State} (h : s.wf = true) (m : Address) : (s.loadAddress m).Canonical := by
  obtain ⟨r, hr⟩ := s.resolve_done m
  rw [State.loadAddress, hr]
  exact (State.memRead_canonical h r.ea).bind fun _ _ h1 => h1

theorem State.load_canonical {s : State} (h : s.wf = true) (src : Source) : (s.load src).Canonical := by
  cases src with
  | immediate v => exact h
  | memory m => exact State.loadAddress_canonical h m

theorem State.jumpTarget_canonical {s : State} (h : s.wf = true) (t : JumpTarget) : (s.jumpTarget t).Canonical := by
  cases t with
  | absolute w => exact h
  | indirect pointer => exact State.readPair_canonical h _ _

/-- A read-modify-write keeps every memory canonical if its transform does. -/
theorem State.modifyAddress_canonical {s : State} {f : Byte → State → Byte × State} (h : s.wf = true) (m : Address)
    (hf : ∀ v u, (f v u).2.wf = u.wf) : (s.modifyAddress m f).Canonical := by
  obtain ⟨r, hr⟩ := s.resolve_done m
  rw [State.modifyAddress, hr]
  exact (State.memRead_canonical h r.ea).bind fun v u hu => State.wf_memWrite ((hf v u).trans hu)

theorem State.modify_canonical {s : State} {f : Byte → State → Byte × State} (h : s.wf = true) (p : Place)
    (hf : ∀ v u, (f v u).2.wf = u.wf) : (s.modify p f).Canonical := by
  cases p with
  | accumulator => exact (hf s.a s).trans h
  | memory m => exact State.modifyAddress_canonical h m hf

/-! ### The stack, the exception entry and the fetch -/

theorem State.wf_push {s : State} (h : s.wf = true) (v : Byte) : (s.push v).wf = true := State.wf_memWrite h

theorem State.wf_pushWord {s : State} (h : s.wf = true) (w : Word) : (s.pushWord w).wf = true :=
  State.wf_push (State.wf_push h _) _

theorem State.pull_canonical {s : State} (h : s.wf = true) : s.pull.Canonical := by
  rw [State.pull_eq]
  exact h

theorem State.pullWord_canonical {s : State} (h : s.wf = true) : s.pullWord.Canonical := by
  rw [State.pullWord_eq]
  exact h

theorem State.returnFromHandler_canonical {s : State} (h : s.wf = true) : s.returnFromHandler.Canonical := by
  rw [State.returnFromHandler_eq]
  exact h

theorem State.enterHandler_canonical {s : State} (h : s.wf = true) (vector : Word) (status : Byte) :
    (s.enterHandler vector status).Canonical := by
  have hpushed : (((s.pushWord s.pc).push status).setInterruptDisable true).wf = true :=
    State.wf_push (State.wf_pushWord h _) _
  exact (State.readPair_canonical hpushed _ _).bind fun _ _ h1 => h1

theorem State.fetchOperands_canonical {s : State} (h : s.wf = true) (opPC : Word) (opcode : Byte) :
    (s.fetchOperands opPC opcode).Canonical := by
  unfold State.fetchOperands
  split
  · exact h
  · exact (State.memRead_canonical h _).bind fun _ _ h1 => h1
  · exact (State.memRead_canonical h _).bind fun _ _ h1 => (State.memRead_canonical h1 _).bind fun _ _ h2 => h2

theorem State.fetch_canonical {s : State} (h : s.wf = true) : s.fetch.Canonical :=
  (State.memRead_canonical h _).bind fun _ _ h1 => (State.fetchOperands_canonical h1 _ _).bind fun _ _ h2 => h2

/-! ### What an instruction answers -/

/-- If a step or an instruction answers a next state, every memory of it is in canonical form. -/
def CanonicalNext (r : Result) : Prop := ∀ t, r = .next t → t.wf = true

theorem canonicalNext_next {t : State} (h : t.wf = true) : CanonicalNext (.next t) := by
  rintro _ ⟨⟩
  exact h

theorem Access.Canonical.andThen {α : Type} {r : Access α} {k : α → State → Result} (hr : r.Canonical)
    (hk : ∀ v t, t.wf = true → CanonicalNext (k v t)) : CanonicalNext (r.andThen k) := by
  cases r with
  | done v t => exact hk v t hr
  | faulted t => exact canonicalNext_next hr

/-- The usual end of a meaning: an access, and then updates that touch no memory. -/
theorem Access.Canonical.andThen_next {α : Type} {r : Access α} {k : α → State → State} (hr : r.Canonical)
    (hk : ∀ v t, (k v t).wf = t.wf) : CanonicalNext (r.andThen fun v t => .next (k v t)) :=
  hr.andThen fun v t ht => canonicalNext_next ((hk v t).trans ht)

theorem readThen_canonical {src : Source} {base : Nat} {penalty : Bool → Nat} {effect : Byte → State → State} {s : State}
    (h : s.wf = true) (he : ∀ v u, (effect v u).wf = u.wf) : CanonicalNext (readThen src base penalty effect s) :=
  (State.load_canonical h src).andThen_next fun l u => he l.value u

theorem storeThen_canonical {m : Address} {base : Nat} {v : Byte} {s : State} (h : s.wf = true) :
    CanonicalNext (storeThen m base v s) := by
  obtain ⟨r, -, hstore⟩ := storeThen_eq (m := m) (base := base) (v := v) (s := s)
  rw [hstore]
  exact canonicalNext_next (State.wf_memWrite h)

theorem shiftThen_canonical {p : Place} {base : Nat} {shift : Shift} {s : State} (h : s.wf = true) :
    CanonicalNext (shiftThen p base shift s) :=
  (State.modify_canonical h p fun _ _ => rfl).andThen_next fun _ _ => rfl

theorem stepThen_canonical {m : Address} {base : Nat} {next : Byte → Byte} {s : State} (h : s.wf = true) :
    CanonicalNext (stepThen m base next s) :=
  (State.modifyAddress_canonical h m fun _ _ => rfl).andThen_next fun _ _ => rfl

theorem branchThen_canonical {cond : Bool} {disp : Byte} {base : Nat} {s : State} (h : s.wf = true) :
    CanonicalNext (branchThen cond disp base s) := by
  cases cond <;> exact canonicalNext_next h

theorem impliedThen_canonical {base : Nat} {effect : State → State} {s : State} (h : (effect s).wf = true) :
    CanonicalNext (impliedThen base effect s) := canonicalNext_next h

theorem State.nmiEntry_canonical {s : State} (h : s.wf = true) : CanonicalNext s.nmiEntry :=
  (State.enterHandler_canonical h _ _).andThen_next fun _ _ => rfl

theorem State.irqEntry_canonical {s : State} (h : s.wf = true) : CanonicalNext s.irqEntry :=
  (State.enterHandler_canonical h _ _).andThen_next fun _ _ => rfl

/-- Every instruction keeps every memory canonical: only a store, a read-modify-write and a push write a byte, and each
writes it through the bus. -/
theorem exec_canonical (i : Instr) {s : State} (h : s.wf = true) : CanonicalNext (exec i s) := by
  unfold exec
  cases i with
  | adc | sbc | and | ora | eor | bit | cmp | cpx | cpy | lda | ldx | ldy =>
    exact readThen_canonical h fun _ _ => rfl
  | sta | stx | sty => exact storeThen_canonical h
  | inc | dec => exact stepThen_canonical h
  | asl | lsr | rol | ror => exact shiftThen_canonical h
  | bcc | bcs | beq | bne | bmi | bpl | bvc | bvs => exact branchThen_canonical h
  | jmp t => exact (State.jumpTarget_canonical h t).andThen_next fun _ _ => rfl
  | jsr => exact canonicalNext_next (State.wf_pushWord h _)
  | brk => exact (State.enterHandler_canonical h _ _).andThen_next fun _ _ => rfl
  | rts => exact (State.pullWord_canonical h).andThen_next fun _ _ => rfl
  | rti => exact (State.returnFromHandler_canonical h).andThen_next fun _ _ => rfl
  | pla | plp => exact (State.pull_canonical h).andThen_next fun _ _ => rfl
  | pha | php => exact impliedThen_canonical (State.wf_push h _)
  | clc | sec | cli | sei | cld | sed | clv | tax | tay | txa | tya | tsx | txs | inx | iny | dex | dey | nop | undoc =>
    exact impliedThen_canonical h

end Sys2Proof.Machine

namespace Sys2Proof.Claims

open Sys2Proof.Machine

/-- Settles O17: the entries, the fetch and every instruction keep `State.wf`, and a step is one of these. -/
theorem stepKeepsMemoriesCanonical : Obligations.StepKeepsMemoriesCanonical := by
  intro s t hs hstep
  rcases step_cases hstep with ⟨-, rfl⟩ | ⟨-, -, hnmi⟩ | ⟨-, -, -, hirq⟩ | ⟨-, hfault | ⟨i, s1, hfetch, hexec⟩⟩
  · exact hs
  · exact State.nmiEntry_canonical hs t hnmi
  · exact State.irqEntry_canonical hs t hirq
  · have hf := State.fetch_canonical hs
    rwa [hfault] at hf
  · have hf := State.fetch_canonical hs
    rw [hfetch] at hf
    exact exec_canonical i hf t hexec

end Sys2Proof.Claims

/-! PROOFS. What an instruction leaves of the registers, the flags and the latches (O23, O24, O25). `WritesOnly` is the frame of an
instruction by the tables R31 to R49, `exec_writesOnly` says that every instruction stays within it, and the statements about
flags, registers and latches read it off field by field. The state after reset (O18) and the status byte (O60) are settled
beside them. -/

namespace Sys2Proof.Machine

open Sys2Proof.Claims

/-! ### Running states and accesses -/

@[simp] theorem State.running_raiseFault (s : State) (a : Word) : (s.raiseFault a).running = false := rfl

/-- A state of the same core is the state itself with other ports. -/
theorem SameCore.exists_ports {s t : State} (h : SameCore s t) :
    ∃ m l d, t = { s with mapper := m, ioLog := l, draws := d } := ⟨_, _, _, h⟩

theorem Access.bind_andThen {α β : Type} (r : Access α) (k : α → State → Access β) (l : β → State → Result) :
    (r.bind k).andThen l = r.andThen fun v s => (k v s).andThen l := by
  cases r <;> rfl

/-- Where an instruction that reads first ends in a running state, its read answered. -/
theorem Access.OnlyReads.andThen_running {α : Type} {s t : State} {r : Access α} {k : α → State → Result}
    (hr : r.OnlyReads s) (h : r.andThen k = .next t) (ht : t.running = true) :
    ∃ v u, SameCore s u ∧ k v u = .next t := by
  rcases Access.andThen_eq_next.mp h with hfault | ⟨v, u, hdone, hk⟩
  · obtain ⟨u, a, -, rfl⟩ := hr.faulted hfault
    simp at ht
  · exact ⟨v, u, hr.done hdone, hk⟩

/-- Where an exception entry ends in a running state, its vector was read in the state after its pushes. -/
theorem State.enterHandler_andThen_running {s t : State} {vector : Word} {status : Byte} {k : Word → State → Result}
    (h : (s.enterHandler vector status).andThen k = .next t) (ht : t.running = true) :
    ∃ target u, SameCore (s.afterEntryPushes status) u ∧ k target (u.setPc target) = .next t := by
  rw [State.enterHandler_eq, Access.bind_andThen] at h
  exact (State.readWord_onlyReads _ _).andThen_running h ht

/-! ### The frame of an instruction -/

/-- From s to t the instruction writes no more of the registers, the flags and the latches than the tables of R31 to R49
name for it; the clock, the memories, the ports and the marks are free. -/
def WritesOnly (instr : Instr) (s t : State) : Prop :=
  t = { t with
    a := bif writesA instr then t.a else s.a
    x := bif writesX instr then t.x else s.x
    y := bif writesY instr then t.y else s.y
    sp := bif writesSp instr then t.sp else s.sp
    pc := bif writesPc instr then t.pc else s.pc
    flags := {
      c := bif writesC instr then t.flags.c else s.flags.c
      z := bif writesZN instr then t.flags.z else s.flags.z
      i := bif writesI instr then t.flags.i else s.flags.i
      d := bif writesD instr then t.flags.d else s.flags.d
      b := bif restoresFlags instr then t.flags.b else s.flags.b
      v := bif writesV instr then t.flags.v else s.flags.v
      n := bif writesZN instr then t.flags.n else s.flags.n }
    nmiPending := s.nmiPending
    irqPending := s.irqPending
    ramDraw := s.ramDraw }

section
variable {instr : Instr} {s t u : State}

/-! The fields that the frame keeps. -/

theorem WritesOnly.a (h : WritesOnly instr s t) (hi : writesA instr = false) : t.a = s.a := by
  rw [h]; simp [hi]
theorem WritesOnly.x (h : WritesOnly instr s t) (hi : writesX instr = false) : t.x = s.x := by
  rw [h]; simp [hi]
theorem WritesOnly.y (h : WritesOnly instr s t) (hi : writesY instr = false) : t.y = s.y := by
  rw [h]; simp [hi]
theorem WritesOnly.sp (h : WritesOnly instr s t) (hi : writesSp instr = false) : t.sp = s.sp := by
  rw [h]; simp [hi]
theorem WritesOnly.pc (h : WritesOnly instr s t) (hi : writesPc instr = false) : t.pc = s.pc := by
  rw [h]; simp [hi]
theorem WritesOnly.c (h : WritesOnly instr s t) (hi : writesC instr = false) : t.flags.c = s.flags.c := by
  rw [h]; simp [hi]
theorem WritesOnly.z (h : WritesOnly instr s t) (hi : writesZN instr = false) : t.flags.z = s.flags.z := by
  rw [h]; simp [hi]
theorem WritesOnly.n (h : WritesOnly instr s t) (hi : writesZN instr = false) : t.flags.n = s.flags.n := by
  rw [h]; simp [hi]
theorem WritesOnly.i (h : WritesOnly instr s t) (hi : writesI instr = false) : t.flags.i = s.flags.i := by
  rw [h]; simp [hi]
theorem WritesOnly.d (h : WritesOnly instr s t) (hi : writesD instr = false) : t.flags.d = s.flags.d := by
  rw [h]; simp [hi]
theorem WritesOnly.v (h : WritesOnly instr s t) (hi : writesV instr = false) : t.flags.v = s.flags.v := by
  rw [h]; simp [hi]
theorem WritesOnly.b (h : WritesOnly instr s t) (hi : restoresFlags instr = false) : t.flags.b = s.flags.b := by
  rw [h]; simp [hi]
theorem WritesOnly.nmiPending (h : WritesOnly instr s t) : t.nmiPending = s.nmiPending := by rw [h]
theorem WritesOnly.irqPending (h : WritesOnly instr s t) : t.irqPending = s.irqPending := by rw [h]
theorem WritesOnly.ramDraw (h : WritesOnly instr s t) : t.ramDraw = s.ramDraw := by rw [h]

/-! What stays within a frame: reads before it, and a bus write and the count of cycles after it. -/

theorem WritesOnly.of_sameCore (hs : SameCore s u) (h : WritesOnly instr u t) : WritesOnly instr s t := by
  obtain ⟨m, l, d, rfl⟩ := hs.exists_ports
  exact h

theorem WritesOnly.addCycles (h : WritesOnly instr s t) (n : Nat) : WritesOnly instr s (t.addCycles n) :=
  congrArg (State.addCycles n) h

theorem WritesOnly.memWrite (h : WritesOnly instr s t) (a : Word) (v : Byte) : WritesOnly instr s (t.memWrite a v) := by
  rcases t.memWrite_cases a v with ⟨-, hw⟩ | ⟨-, hw⟩ | ⟨-, hw⟩ <;> rw [hw]
  · exact congrArg (State.setRam _) h
  · exact congrArg (State.logIo _) h
  · exact congrArg (State.setMapper _) h

/-! ### The shared shapes of a meaning -/

/-- If the instruction answers r from s and meets no unmapped address, it stays within its frame. -/
def WritesOnlyNext (instr : Instr) (s : State) (r : Result) : Prop :=
  ∀ t, r = .next t → t.running = true → WritesOnly instr s t

theorem writesOnlyNext_next (h : WritesOnly instr s t) : WritesOnlyNext instr s (.next t) := by
  rintro _ ⟨⟩ -
  exact h

/-- A meaning that reads and then updates is in the frame its update is in. -/
theorem Access.OnlyReads.andThen_writesOnly {α : Type} {r : Access α} {k : α → State → State} (hr : r.OnlyReads s)
    (hk : ∀ v u, WritesOnly instr u (k v u)) : WritesOnlyNext instr s (r.andThen fun v u => .next (k v u)) := by
  intro t h ht
  obtain ⟨v, u, hs, ⟨⟩⟩ := hr.andThen_running h ht
  exact (hk v u).of_sameCore hs

theorem readThen_writesOnly {src : Source} {base : Nat} {penalty : Bool → Nat} {effect : Byte → State → State}
    (he : ∀ v u, WritesOnly instr u (effect v u)) : WritesOnlyNext instr s (readThen src base penalty effect s) :=
  (s.load_onlyReads src).andThen_writesOnly fun l u => (he l.value u).addCycles _

theorem storeThen_writesOnly {m : Address} {base : Nat} {v : Byte} (h : WritesOnly instr s s) :
    WritesOnlyNext instr s (storeThen m base v s) := by
  obtain ⟨r, -, hstore⟩ := storeThen_eq (m := m) (base := base) (v := v) (s := s)
  rw [hstore]
  exact writesOnlyNext_next ((h.memWrite _ _).addCycles _)

theorem modifyAddress_writesOnly {m : Address} {base : Nat} {f : Byte → State → Byte × State}
    (hf : ∀ v u, WritesOnly instr u (f v u).2) :
    WritesOnlyNext instr s ((s.modifyAddress m f).andThen fun _ u => .next (u.addCycles base)) := by
  rcases modifyAddress_cases (m := m) (f := f) (s := s) with ⟨r, v, u, -, -, hs, hdone⟩ | ⟨r, u, -, -, -, hfault⟩
  · rw [hdone]
    exact writesOnlyNext_next ((((hf v u).memWrite _ _).addCycles _).of_sameCore hs)
  · rw [hfault]
    rintro _ ⟨⟩ hrunning
    simp at hrunning

theorem branchThen_writesOnly {cond : Bool} {disp : Byte} {base : Nat} (htaken : ∀ w, WritesOnly instr s (s.setPc w))
    (hnot : WritesOnly instr s s) : WritesOnlyNext instr s (branchThen cond disp base s) := by
  cases cond with
  | true => exact writesOnlyNext_next ((htaken _).addCycles _)
  | false => exact writesOnlyNext_next (hnot.addCycles _)

theorem impliedThen_writesOnly {base : Nat} {effect : State → State} (h : WritesOnly instr s (effect s)) :
    WritesOnlyNext instr s (impliedThen base effect s) := writesOnlyNext_next (h.addCycles _)

/-- A meaning whose access is known to answer is in the frame its updates are in. -/
theorem andThen_writesOnly_of_done {α : Type} {r : Access α} {v : α} {k : α → State → State} (hr : r = .done v u)
    (hk : WritesOnly instr s (k v u)) : WritesOnlyNext instr s (r.andThen fun v u => .next (k v u)) := by
  rw [hr]
  exact writesOnlyNext_next hk

theorem execBrk_writesOnly : WritesOnlyNext .brk s (execBrk s) := by
  intro t h ht
  obtain ⟨target, u, hs, ⟨⟩⟩ := State.enterHandler_andThen_running h ht
  obtain ⟨m, l, d, rfl⟩ := hs.exists_ports
  rfl

end

/-- Every instruction writes, of the registers and the flags, only what its rule names, and no latch (R31 to R49). -/
theorem exec_writesOnly (i : Instr) (s : State) : WritesOnlyNext i s (exec i s) := by
  unfold exec
  cases i with
  | adc | sbc | and | ora | eor | bit | cmp | cpx | cpy | lda | ldx | ldy => exact readThen_writesOnly fun _ _ => rfl
  | sta | stx | sty => exact storeThen_writesOnly rfl
  | inc | dec => exact modifyAddress_writesOnly fun _ _ => rfl
  | asl p | lsr p | rol p | ror p =>
    cases p with
    | accumulator => exact writesOnlyNext_next rfl
    | memory m => exact modifyAddress_writesOnly fun _ _ => rfl
  | bcc | bcs | beq | bne | bmi | bpl | bvc | bvs => exact branchThen_writesOnly (fun _ => rfl) rfl
  | jmp t => exact (s.jumpTarget_onlyReads t).andThen_writesOnly fun _ _ => rfl
  | jsr => exact writesOnlyNext_next (by rw [State.pushWord_eq]; rfl)
  | brk => exact execBrk_writesOnly
  | rts => exact andThen_writesOnly_of_done s.pullWord_eq rfl
  | rti => exact andThen_writesOnly_of_done s.returnFromHandler_eq rfl
  | pla | plp => exact andThen_writesOnly_of_done s.pull_eq rfl
  | pha | php => exact impliedThen_writesOnly (by rw [State.push_eq]; rfl)
  | clc | sec | cli | sei | cld | sed | clv | tax | tay | txa | tya | tsx | txs | inx | iny | dex | dey | nop | undoc =>
    exact impliedThen_writesOnly rfl

/-! ### The latches over a step -/

theorem State.nmiEntry_latches {s t : State} (h : s.nmiEntry = .next t) (ht : t.running = true) :
    t.nmiPending = false ∧ t.irqPending = s.irqPending := by
  obtain ⟨target, u, hs, ⟨⟩⟩ := State.enterHandler_andThen_running h ht
  exact ⟨rfl, hs.irqPending⟩

theorem State.irqEntry_latches {s t : State} (h : s.irqEntry = .next t) (ht : t.running = true) :
    t.nmiPending = s.nmiPending ∧ t.irqPending = false := by
  obtain ⟨target, u, hs, ⟨⟩⟩ := State.enterHandler_andThen_running h ht
  exact ⟨hs.nmiPending, rfl⟩

/-- A fetch and the instruction it finds keep both latches. -/
theorem fetch_exec_latches {s s1 t : State} {i : Instr} (hfetch : s.fetch = .done i s1) (hexec : exec i s1 = .next t)
    (ht : t.running = true) : t.nmiPending = s.nmiPending ∧ t.irqPending = s.irqPending := by
  have hs := State.fetch_done hfetch
  have hw := exec_writesOnly i s1 t hexec ht
  exact ⟨hw.nmiPending.trans hs.nmiPending, hw.irqPending.trans hs.irqPending⟩

/-- In a quiet machine no NMI is pending, and a pending IRQ is masked. -/
theorem State.latches_of_quiet {s : State} (h : s.quiet = true) :
    s.nmiPending = false ∧ (s.irqPending && s.flags.i) = s.irqPending := by
  simp only [State.quiet, Bool.and_eq_true, Bool.not_eq_true', Bool.or_eq_true] at h
  obtain ⟨⟨-, hnmi⟩, hirq⟩ := h
  rcases hirq with hirq | hirq <;> simp [hnmi, hirq]

/-! ### The status byte -/

/-- A flag put at a bit of a byte is that bit, and every other bit is 0. -/
@[simp] theorem getElem_flagBit (k j : Nat) (f : Bool) (h : j < 8) : (flagBit k f)[j] = (f && decide (j = k)) := by
  cases f with
  | false => simp [flagBit]
  | true => exact BitVec.getElem_twoPow h

end Sys2Proof.Machine

namespace Sys2Proof.Claims

open Sys2Proof.Machine

/-- Settles O24: `exec_writesOnly` holds of each flag what its table names. -/
theorem flagsWrittenOnlyByTheirInstructions : Obligations.FlagsWrittenOnlyByTheirInstructions := by
  intro i s t _ hexec ht
  have h := exec_writesOnly i s t hexec ht
  exact ⟨h.c, h.z, h.n, h.i, h.d, h.v, h.b⟩

/-- Settles O25: `exec_writesOnly` holds of each register what its table names, and of the latches that they stay. -/
theorem registersWrittenOnlyByTheirInstructions : Obligations.RegistersWrittenOnlyByTheirInstructions := by
  intro i s t _ hexec ht
  have h := exec_writesOnly i s t hexec ht
  exact ⟨h.a, h.x, h.y, h.sp, h.pc, h.nmiPending, h.irqPending, h.ramDraw⟩

/-- Settles O23: each entry clears its own latch, and a fetched instruction keeps both. -/
theorem latchesClearedOnlyByEntries : Obligations.LatchesClearedOnlyByEntries := by
  intro s t hrunning hstep ht
  rcases step_cases hstep with
    ⟨hstopped, -⟩ | ⟨-, hpending, hnmi⟩ | ⟨-, hnone, htaken, hirq⟩ | ⟨hquiet, hfault | ⟨i, s1, hfetch, hexec⟩⟩
  · simp [hstopped] at hrunning
  · obtain ⟨hn, hi⟩ := State.nmiEntry_latches hnmi ht
    simp [hn, hi, hpending]
  · obtain ⟨hn, hi⟩ := State.irqEntry_latches hirq ht
    simp only [Bool.and_eq_true, Bool.not_eq_true'] at htaken
    simp [hn, hi, hnone, htaken]
  · obtain ⟨u, a, -, rfl⟩ := State.fetch_faulted hfault
    simp at ht
  · obtain ⟨hn, hi⟩ := fetch_exec_latches hfetch hexec ht
    obtain ⟨hnone, hmasked⟩ := State.latches_of_quiet hquiet
    simp [hn, hi, hnone, hmasked]

/-- Settles O18: the fields of `State.reset`, and `State.wf_reset`. -/
theorem resetStateHoldsSpecValues : Obligations.ResetStateHoldsSpecValues :=
  ⟨rfl, rfl, rfl, rfl, rfl, rfl, rfl, rfl, rfl, State.wf_reset⟩

/-- Settles O60, bit by bit: each bit of the packed byte is its flag, bit 5 is 1, and unpacking reads the same bits. -/
theorem statusByteRoundTrip : Obligations.StatusByteRoundTrip := by
  refine ⟨fun f => ?_, fun v => ⟨rfl, BitVec.eq_of_getElem_eq fun j hj => ?_⟩⟩
  · simp [Flags.getSr, Flags.ofSr]
  · interval_cases j <;> simp [Flags.getSr, Flags.ofSr]

end Sys2Proof.Claims

/-! PROOFS. The bus, the stack and what a push or a load leaves alone (O29 to O35, O37). Byte and word accesses follow from
their laws by handler. `KeepsByte` is the frame of one byte of memory: reads keep every byte, a push keeps those off its own
stack byte, and `OffStack` counts off the bytes of a run of pushes. -/

namespace Sys2Proof.Machine

open Sys2Proof.Claims

/-! ### The frame of one byte of memory -/

/-- From s to t the byte at the address stays, where it is one of internal RAM or of an NROM-style cartridge, and an
NROM-style cartridge stays one. Unlike `SameByte`, which it implies, it can be chained. -/
def KeepsByte (a : Word) (s t : State) : Prop :=
  (handlerOf a = .ram → t.ramRead a = s.ramRead a) ∧
  ∀ r, s.mapper = .nrom r → ∃ r', t.mapper = .nrom r' ∧ r'.read a = r.read a

section
variable {a b lo hi : Word} {s t u : State}

theorem KeepsByte.sameByte (h : KeepsByte a s t) : SameByte s t a := by
  obtain ⟨hram, hnrom⟩ := h
  refine ⟨hram, fun hmapper r hr => ?_⟩
  obtain ⟨r', hr', hread⟩ := hnrom r hr
  simpa [State.byteAt, hmapper, hr, hr', Mapper.answer] using hread

theorem KeepsByte.trans (h : KeepsByte a s t) (h' : KeepsByte a t u) : KeepsByte a s u := by
  refine ⟨fun hram => (h'.1 hram).trans (h.1 hram), fun r hr => ?_⟩
  obtain ⟨r1, hr1, hread1⟩ := h.2 r hr
  obtain ⟨r2, hr2, hread2⟩ := h'.2 r1 hr1
  exact ⟨r2, hr2, hread2.trans hread1⟩

/-- An update of neither RAM nor the mapper keeps every byte. -/
theorem keepsByte_of_eq (hram : t.ram = s.ram) (hdraw : t.ramDraw = s.ramDraw) (hmapper : t.mapper = s.mapper) :
    KeepsByte a s t :=
  ⟨fun _ => State.ramRead_congr hram hdraw a, fun r hr => ⟨r, hmapper.trans hr, rfl⟩⟩

/-- A byte read keeps every byte: reading an NROM-style cartridge has no side effect (R94). -/
theorem State.memRead_keepsByte {v : Byte} (h : s.memRead b = .done v t) : KeepsByte a s t := by
  have hs : SameCore s t := (s.memRead_onlyReads b).done h
  refine ⟨fun _ => State.ramRead_congr hs.ram hs.ramDraw a, fun r hr => ⟨r, ?_, rfl⟩⟩
  cases hb : handlerOf b with
  | ram => rw [State.memRead_ram hb] at h; cases h; exact hr
  | io => rw [State.memRead_io hb] at h; cases h; exact hr
  | mapper =>
    cases hv : s.mapper.answer b with
    | none => simp [State.memRead_unmapped hb hv] at h
    | some w => rw [State.memRead_mapper hb hv] at h; cases h; simp [hr, Mapper.afterRead]

theorem State.readPair_keepsByte {w : Word} (h : s.readPair lo hi = .done w t) : KeepsByte a s t := by
  obtain ⟨l, s1, hlo, h⟩ := Access.bind_eq_done.mp h
  obtain ⟨m, s2, hhi, ⟨⟩⟩ := Access.bind_eq_done.mp h
  exact (State.memRead_keepsByte hlo).trans (State.memRead_keepsByte hhi)

/-- A RAM write keeps every byte but those of its cell (R83). -/
theorem State.ramWrite_keepsByte {v : Byte} (hb : handlerOf b = .ram) (h : ¬ sameCell a b) :
    KeepsByte a s (s.ramWrite b v) := by
  refine ⟨fun ha => ?_, fun r hr => ⟨r, hr, rfl⟩⟩
  have hcell : ramCell b ≠ ramCell a := fun e => h (.inr ⟨ha, hb, e.symm⟩)
  rw [State.ramRead_ramWrite, if_neg hcell]

/-! ### The bytes that pushes write -/

/-- The address is of none of the cells that n pushes from this SP write (R95). -/
def OffStack (a : Word) (sp : Byte) (n : Nat) : Prop :=
  ∀ k, k < n → ¬ sameCell a (stackAddress (sp - BitVec.ofNat 8 k))

theorem OffStack.top {sp : Byte} {n : Nat} (h : OffStack a sp (n + 1)) : ¬ sameCell a (stackAddress sp) := by
  simpa using h 0 (by omega)

theorem OffStack.below {sp : Byte} {n : Nat} (h : OffStack a sp (n + 1)) : OffStack a (sp - 1) n := by
  intro k hk
  have hsp : sp - 1 - BitVec.ofNat 8 k = sp - BitVec.ofNat 8 (k + 1) := by
    rw [BitVec.sub_sub, BitVec.ofNat_add, BitVec.add_comm]
    rfl
  rw [hsp]
  exact h (k + 1) (by omega)

@[simp] theorem State.push_sp (s : State) (v : Byte) : (s.push v).sp = s.sp - 1 := rfl

/-- A push keeps every byte off the stack byte it writes (R95). -/
theorem State.push_keepsByte {n : Nat} (v : Byte) (h : OffStack a s.sp (n + 1)) : KeepsByte a s (s.push v) := by
  rw [State.push_eq]
  exact (State.ramWrite_keepsByte (handlerOf_stackAddress _) h.top).trans (keepsByte_of_eq rfl rfl rfl)

/-- A pushed word keeps every byte off its two stack bytes (R91). -/
theorem State.pushWord_keepsByte {n : Nat} (w : Word) (h : OffStack a s.sp (n + 2)) : KeepsByte a s (s.pushWord w) :=
  (State.push_keepsByte _ h).trans (State.push_keepsByte _ h.below)

/-- An exception entry that answers keeps every byte off its three stack bytes (R508). -/
theorem State.enterHandler_keepsByte {vector target : Word} {status : Byte}
    (h : s.enterHandler vector status = .done target t) (hoff : OffStack a s.sp 3) : KeepsByte a s t := by
  obtain ⟨w, s1, hread, ⟨⟩⟩ := Access.bind_eq_done.mp h
  have hpushes : KeepsByte a s ((s.pushWord s.pc).push status) :=
    (State.pushWord_keepsByte _ hoff).trans (State.push_keepsByte (n := 0) _ hoff.below.below)
  have hvector : KeepsByte a (((s.pushWord s.pc).push status).setInterruptDisable true) s1 :=
    State.readPair_keepsByte hread
  exact ((hpushes.trans (keepsByte_of_eq rfl rfl rfl)).trans hvector).trans (keepsByte_of_eq rfl rfl rfl)

/-- An exception entry that does not answer ends in the fault of its vector. -/
theorem State.enterHandler_faulted {vector : Word} {status : Byte} (h : s.enterHandler vector status = .faulted t) :
    t.running = false := by
  rcases Access.bind_eq_faulted.mp h with hread | ⟨w, s1, -, hdone⟩
  · obtain ⟨s1, b, -, rfl⟩ := (State.readWord_onlyReads _ _).faulted hread
    rfl
  · cases hdone

/-- BRK keeps every byte off its three stack bytes, where its vector can be read (R313). -/
theorem execBrk_keepsByte (h : execBrk s = .next t) (ht : t.running = true) (hoff : OffStack a s.sp 3) :
    KeepsByte a s t := by
  rcases Access.andThen_eq_next.mp h with hfault | ⟨target, s1, hdone, ⟨⟩⟩
  · simp [State.enterHandler_faulted hfault] at ht
  · exact (State.enterHandler_keepsByte hdone hoff).trans (keepsByte_of_eq rfl rfl rfl)

/-- An instruction that pushes keeps every byte off the stack bytes it pushes. -/
theorem exec_keepsByte_of_pushes {i : Instr} (hpushes : 0 < pushedBytes i) (h : exec i s = .next t)
    (ht : t.running = true) (hoff : OffStack a s.sp (pushedBytes i)) : KeepsByte a s t := by
  cases i with
  | pha | php =>
    cases h
    exact (State.push_keepsByte (n := 0) _ hoff).trans (keepsByte_of_eq rfl rfl rfl)
  | jsr target =>
    cases h
    exact (State.pushWord_keepsByte (n := 0) _ hoff).trans (keepsByte_of_eq rfl rfl rfl)
  | brk => exact execBrk_keepsByte h ht hoff
  | _ => simp [pushedBytes] at hpushes

end

/-- The stack lies in page 1, whatever SP is (R34, R97). -/
theorem highByte_stackAddress (sp : Byte) : highByte (stackAddress sp) = 0x01 := by
  revert sp; decide

/-! ### Loads and word reads of memory -/

/-- Loading an operand whose byte is memory gives that byte and changes nothing (R153). -/
theorem State.loadAddress_of_codeByte {s : State} {m : Address} {r : Resolved} {v : Byte}
    (hr : s.resolve m = .done r s) (hv : codeByte s r.ea v) : s.loadAddress m = .done ⟨v, r.crossed⟩ s := by
  obtain ⟨hbyte, hnrom⟩ := hv
  simp [State.loadAddress, hr, State.memRead_byteAt hbyte hnrom]

/-- A word read whose two byte reads answer gives the word of both, low byte first (R88). -/
theorem State.readPair_done {s s1 s2 : State} {a b : Word} {lo hi : Byte} (hlo : s.memRead a = .done lo s1)
    (hhi : s1.memRead b = .done hi s2) : s.readPair a b = .done (wordOf hi lo) s2 := by
  simp [State.readPair, hlo, hhi]

/-- A pull after a push answers the byte pushed and restores SP (R95, R96). -/
theorem State.pull_push (s : State) (v : Byte) : (s.push v).pull = .done v (s.ramWrite (stackAddress s.sp) v) := by
  have hbyte : (s.push v).ramRead (stackAddress s.sp) = v := by
    rw [State.push_eq]
    exact (State.ramRead_ramWrite s _ _ v).trans (if_pos rfl)
  have hstate : (s.push v).setSp s.sp = s.ramWrite (stackAddress s.sp) v := by
    rw [State.push_eq]
    rfl
  rw [State.pull_eq, State.push_sp, BitVec.sub_add_cancel, hbyte, hstate]

end Sys2Proof.Machine

namespace Sys2Proof.Claims

open Sys2Proof.Machine

/-- Settles O29: `exec_keepsByte_of_pushes`, and the stack lies in page 1. -/
theorem pushesKeepOtherBytes : Obligations.PushesKeepOtherBytes := by
  intro i s t hpushes _ hexec ht
  exact ⟨fun a hoff => (exec_keepsByte_of_pushes hpushes hexec ht hoff).sameByte, fun k _ => highByte_stackAddress _⟩

/-- Settles O37: a load only reads, and where its byte is memory it is the load of that byte. -/
theorem loadsChangeOnlyThePorts : Obligations.LoadsChangeOnlyThePorts := by
  intro src s s1 l hload
  refine ⟨(s.load_onlyReads src).done hload, ?_⟩
  rintro m r rfl hr ⟨v, hv⟩
  have hmemory : s.load (.memory m) = .done ⟨v, r.crossed⟩ s := State.loadAddress_of_codeByte hr hv
  cases hmemory.symm.trans hload
  exact ⟨rfl, hv⟩

/-- Settles O30 from the law of a RAM read after a RAM write. -/
theorem ramIsMirrored : Obligations.RamIsMirrored := by
  intro s a b v ha hb
  have hra : handlerOf a = .ram := handlerOf_ram_iff.mpr ha
  have hrb : handlerOf b = .ram := handlerOf_ram_iff.mpr hb
  rw [State.memWrite_ram hra, State.memRead_ram hrb, State.memRead_ram hrb, State.ramRead_ramWrite]
  refine ⟨fun (hcell : ramCell a = ramCell b) => ?_, fun (hcell : ramCell a ≠ ramCell b) => ⟨s.ramRead b, rfl, ?_⟩⟩
  · rw [if_pos hcell]
  · rw [if_neg hcell]

/-- Settles O31: one law of `memRead` for each handler, the mapper's with and without an answer. -/
theorem byteReadByAddress : Obligations.ByteReadByAddress := by
  intro s a
  refine ⟨fun ha => ?_, fun ha v hv => ?_, fun ha hv hf => ?_, fun hlo hhi => ?_⟩
  · exact State.memRead_ram (handlerOf_ram_iff.mpr ha)
  · exact State.memRead_mapper (handlerOf_mapper_iff.mpr ha) hv
  · exact ⟨_, State.memRead_unmapped (handlerOf_mapper_iff.mpr ha) hv, by simp [hf]⟩
  · exact ⟨_, State.memRead_io (handlerOf_io_iff.mpr ⟨hlo, hhi⟩)⟩

/-- Settles O32: one law of `memWrite` for each handler. -/
theorem byteWriteByAddress : Obligations.ByteWriteByAddress := by
  intro s a v
  exact ⟨fun ha => State.memWrite_ram (handlerOf_ram_iff.mpr ha),
    fun ha => State.memWrite_mapper (handlerOf_mapper_iff.mpr ha),
    fun hlo hhi => State.memWrite_io (handlerOf_io_iff.mpr ⟨hlo, hhi⟩)⟩

/-- Settles O33: the I/O port's read twice, the second time with one draw more. -/
theorem ioReadsAreSeparateDraws : Obligations.IoReadsAreSeparateDraws := by
  intro s a hlo hhi
  have hio : handlerOf a = .io := handlerOf_io_iff.mpr ⟨hlo, hhi⟩
  exact ⟨_, _, State.memRead_io hio, State.memRead_io hio, rfl⟩

/-- Settles O34: both word reads are a pair of byte reads, and `nextInPage` is the next byte of the page. -/
theorem wordReadsAreLittleEndian : Obligations.WordReadsAreLittleEndian := by
  intro s s1 s2 a lo hi hlo
  rw [← nextInPage_eq]
  exact ⟨State.readPair_done hlo, State.readPair_done hlo⟩

/-- Settles O35: the laws of a push, of a pull and of a pull after a push, in terms of the stack byte's RAM cell. -/
theorem pushAndPull : Obligations.PushAndPull := by
  intro s v
  have hwrite : s.ramWrite (stackAddress s.sp) v = { s with ram := s.ram.write none (0x100 + s.sp.toNat) v } := by
    rw [State.ramWrite_eq, ramCell_stackAddress]
    rfl
  refine ⟨?_, ⟨_, s.pull_eq, State.memRead_ram (handlerOf_stackAddress _)⟩, ?_⟩
  · rw [State.push_eq, hwrite]
    rfl
  · rw [State.pull_push, hwrite]

end Sys2Proof.Claims

/-! PROOFS. Decoding and encoding are inverse (O1 to O5). `decode_encode` goes through the table R161 operation by operation,
`documented_cell` through the opcode map R160 cell by cell; that the map is total, that the opcode byte alone fixes the length
and that bytes which decode are encoded back all follow from these two. -/

namespace Sys2Proof

open Sys2Proof.Claims

/-! ### Encoding and then decoding -/

/-- An operand word is read back from its two bytes (R133). -/
theorem decode_wordOperand {f : Word → Instr} {opcode : Byte} {w : Word} {rest : List Byte}
    (hmap : ∀ op1 op2, Instr.ofBytes opcode op1 op2 = f (wordOf op2 op1)) (hlength : (f 0).length = 3) :
    decode (opcode :: (wordBytes w ++ rest)) = .ok (f w, rest) := by
  have hbare : Instr.ofBytes opcode 0 0 = f 0 := hmap 0 0
  simp only [decode, hbare, hlength]
  simp [wordBytes, hmap]

/-- Decoding gives an encoded instruction back: each entry of the table R161 stands in the opcode map R160, mode by mode; an
operand of a mode that the operation lacks makes no instruction. -/
theorem decode_encode (i : Instr) (rest : List Byte) (h : i.wellFormed = true) :
    decode (encode i ++ rest) = .ok (i, rest) := by
  cases i with
  | adc src | sbc src | and src | ora src | eor src | cmp src | lda src =>
    cases src with
    | immediate => rfl
    | memory m =>
      cases m with
      | zeroPage | zeroPageX | indexedIndirect | indirectIndexed => rfl
      | absolute | absoluteX | absoluteY => apply decode_wordOperand (fun _ _ => rfl); rfl
      | zeroPageY => cases h
  | ldx src =>
    cases src with
    | immediate => rfl
    | memory m =>
      cases m with
      | zeroPage | zeroPageY => rfl
      | absolute | absoluteY => apply decode_wordOperand (fun _ _ => rfl); rfl
      | _ => cases h
  | ldy src =>
    cases src with
    | immediate => rfl
    | memory m =>
      cases m with
      | zeroPage | zeroPageX => rfl
      | absolute | absoluteX => apply decode_wordOperand (fun _ _ => rfl); rfl
      | _ => cases h
  | cpx src | cpy src =>
    cases src with
    | immediate => rfl
    | memory m =>
      cases m with
      | zeroPage => rfl
      | absolute => apply decode_wordOperand (fun _ _ => rfl); rfl
      | _ => cases h
  | asl p | lsr p | rol p | ror p =>
    cases p with
    | accumulator => rfl
    | memory m =>
      cases m with
      | zeroPage | zeroPageX => rfl
      | absolute | absoluteX => apply decode_wordOperand (fun _ _ => rfl); rfl
      | _ => cases h
  | inc m | dec m =>
    cases m with
    | zeroPage | zeroPageX => rfl
    | absolute | absoluteX => apply decode_wordOperand (fun _ _ => rfl); rfl
    | _ => cases h
  | sta m =>
    cases m with
    | zeroPage | zeroPageX | indexedIndirect | indirectIndexed => rfl
    | absolute | absoluteX | absoluteY => apply decode_wordOperand (fun _ _ => rfl); rfl
    | zeroPageY => cases h
  | stx m =>
    cases m with
    | zeroPage | zeroPageY => rfl
    | absolute => apply decode_wordOperand (fun _ _ => rfl); rfl
    | _ => cases h
  | sty m =>
    cases m with
    | zeroPage | zeroPageX => rfl
    | absolute => apply decode_wordOperand (fun _ _ => rfl); rfl
    | _ => cases h
  | bit m =>
    cases m with
    | zeroPage => rfl
    | absolute => apply decode_wordOperand (fun _ _ => rfl); rfl
    | _ => cases h
  | jmp t => cases t <;> (apply decode_wordOperand (fun _ _ => rfl); rfl)
  | jsr => apply decode_wordOperand (fun _ _ => rfl); rfl
  | undoc opcode =>
    have hmember : opcode ∈ undocumentedBytes := List.contains_iff_mem.mp h
    have hdecoded : ∀ op1 op2, Instr.ofBytes opcode op1 op2 = .undoc opcode := ofBytes_of_undocumented hmember
    show decode (opcode :: rest) = _
    simp only [decode, hdecoded]
    rfl
  | _ => rfl

/-- Two well-formed instructions with the same encoding are one. -/
theorem encode_injective {i j : Instr} (hi : i.wellFormed = true) (hj : j.wellFormed = true) (h : encode i = encode j) :
    i = j := by
  have hdecode := decode_encode j [] hj
  rw [← h, decode_encode i [] hi] at hdecode
  injection hdecode with hpair
  injection hpair

/-! ### Decoding and then encoding -/

/-- What an instruction in a cell of the opcode map has, `w` being its operand word, `op1` its first operand byte and `j` the
cell with other operands: it is well formed and of the cell's own mode, it is BRK in the first cell alone, and its encoding is
the opcode and as many operand bytes as it reads. -/
structure MapCell (opcode : Nat) (op1 : Byte) (w : Word) (i j : Instr) : Prop where
  wellFormed : i.wellFormed = true
  mode : i.mode = j.mode
  padBytes : i.padBytes = if opcode = 0 then 1 else 0
  encoded : encode i = BitVec.ofNat 8 opcode :: match i.operandBytes with
    | 0 => if opcode = 0 then [0x00] else []
    | 1 => [op1]
    | _ => wordBytes w

/-- The opcode map R160, row by row and column by column: a byte is of no cell whatever follows it, or a cell holds. -/
theorem documented_cell (opcode op1 op2 op1' op2' : Byte) :
    Option.Rel (MapCell opcode.toNat op1 (wordOf op2 op1)) (Instr.documented opcode op1 op2)
      (Instr.documented opcode op1' op2') := by
  have hrow : opcode.toNat / 16 < 16 := by omega
  rw [← Nat.div_add_mod opcode.toNat 16]
  unfold Instr.documented
  generalize wordOf op2 op1 = w, wordOf op2' op1' = w'
  generalize opcode.toNat / 16 = row at *
  generalize opcode.toNat % 16 = column at *
  interval_cases row
  all_goals
    simp only [Instr.row0, Instr.row1, Instr.row2, Instr.row3, Instr.row4, Instr.row5, Instr.row6, Instr.row7, Instr.row8,
      Instr.row9, Instr.rowA, Instr.rowB, Instr.rowC, Instr.rowD, Instr.rowE, Instr.rowF]
    split <;> constructor <;> exact ⟨rfl, rfl, rfl, rfl⟩

/-- The bytes of no cell are the 105 of R162. -/
theorem mem_undocumentedBytes : ∀ opcode : Byte, Instr.documented opcode 0 0 = none → opcode ∈ undocumentedBytes := by
  decide

theorem opcode_toNat_ne_zero {opcode : Byte} (h : opcode ≠ 0) : opcode.toNat ≠ 0 :=
  fun hzero => h (BitVec.eq_of_toNat_eq hzero)

/-- An undocumented instruction has what a cell has, whatever bytes follow it (R162). -/
theorem undoc_cell {opcode : Byte} (h : opcode ∈ undocumentedBytes) (op1 : Byte) (w : Word) :
    MapCell opcode.toNat op1 w (.undoc opcode) (.undoc opcode) := by
  have hne : opcode.toNat ≠ 0 := opcode_toNat_ne_zero (by rintro rfl; exact absurd h (by decide))
  have hwellFormed : (Instr.undoc opcode).wellFormed = undocumentedBytes.contains opcode := rfl
  refine ⟨hwellFormed.trans (List.contains_iff_mem.mpr h), rfl, ?_, ?_⟩
  · rw [if_neg hne]; rfl
  · rw [if_neg hne, BitVec.ofNat_toNat, BitVec.setWidth_eq]; rfl

/-- Every opcode byte, documented or not, gives an instruction that has what a cell has. -/
theorem ofBytes_cell (opcode op1 op2 op1' op2' : Byte) :
    MapCell opcode.toNat op1 (wordOf op2 op1) (Instr.ofBytes opcode op1 op2) (Instr.ofBytes opcode op1' op2') := by
  by_cases hmember : opcode ∈ undocumentedBytes
  · rw [ofBytes_of_undocumented hmember, ofBytes_of_undocumented hmember]
    exact undoc_cell hmember op1 _
  · have hcell := documented_cell opcode op1 op2 op1' op2'
    have hbare := documented_cell opcode op1 op2 0 0
    have hdocumented : Instr.documented opcode 0 0 ≠ none := fun h => hmember (mem_undocumentedBytes opcode h)
    unfold Instr.ofBytes
    generalize Instr.documented opcode op1 op2 = x, Instr.documented opcode op1' op2' = y,
      Instr.documented opcode 0 0 = z at *
    cases hcell with
    | some h => exact h
    | none => cases hbare; contradiction

/-- Every opcode byte is decoded to a well-formed instruction (R163). -/
theorem wellFormed_ofBytes (opcode op1 op2 : Byte) : (Instr.ofBytes opcode op1 op2).wellFormed = true :=
  (ofBytes_cell opcode op1 op2 0 0).wellFormed

/-- The opcode byte alone fixes how many operand bytes are read (R131). -/
theorem operandBytes_ofBytes (opcode op1 op2 op1' op2' : Byte) :
    (Instr.ofBytes opcode op1 op2).operandBytes = (Instr.ofBytes opcode op1' op2').operandBytes := by
  rw [Instr.operandBytes, (ofBytes_cell opcode op1 op2 op1' op2').mode, Instr.operandBytes]

/-- The opcode byte alone fixes the length (R131). -/
theorem length_ofBytes (opcode op1 op2 op1' op2' : Byte) :
    (Instr.ofBytes opcode op1 op2).length = (Instr.ofBytes opcode op1' op2').length := by
  have hcell := ofBytes_cell opcode op1 op2 op1' op2'
  rw [Instr.length, Instr.length, hcell.mode, hcell.padBytes, (ofBytes_cell opcode op1' op2' op1 op2).padBytes]

/-- BRK is the instruction of the opcode 0x00 alone (R160). -/
theorem opcode_of_ofBytes_eq_brk {opcode op1 op2 : Byte} (h : Instr.ofBytes opcode op1 op2 = .brk) : opcode = 0 := by
  by_contra hne
  have hpad := (ofBytes_cell opcode op1 op2 0 0).padBytes
  rw [h, if_neg (opcode_toNat_ne_zero hne)] at hpad
  cases hpad

theorem Instr.operandBytes_le (i : Instr) : i.operandBytes ≤ 2 := by
  unfold Instr.operandBytes
  cases i.mode <;> decide

theorem Instr.length_eq (i : Instr) : i.length = i.operandBytes + i.padBytes + 1 := by
  unfold Instr.length Instr.operandBytes
  cases i.mode <;> simp [Mode.length] <;> omega

theorem Instr.length_of_ne_brk {i : Instr} (h : i ≠ .brk) : i.length = i.operandBytes + 1 := by
  rw [Instr.length_eq, Instr.padBytes, if_neg h]

/-- An instruction other than BRK is encoded as the opcode and the operand bytes it was made of. -/
theorem encode_ofBytes {opcode : Byte} (h : opcode ≠ 0) (op1 op2 : Byte) :
    encode (Instr.ofBytes opcode op1 op2) = opcode :: [op1, op2].take (Instr.ofBytes opcode op1 op2).operandBytes := by
  have hcount := Instr.operandBytes_le (Instr.ofBytes opcode op1 op2)
  rw [(ofBytes_cell opcode op1 op2 0 0).encoded, if_neg (opcode_toNat_ne_zero h), BitVec.ofNat_toNat, BitVec.setWidth_eq]
  generalize (Instr.ofBytes opcode op1 op2).operandBytes = n at *
  interval_cases n <;> simp [wordBytes]

/-- Operand bytes that the mode does not read are ignored. -/
theorem ofBytes_congr {opcode op1 op2 op1' op2' : Byte} {n : Nat} (hcount : (Instr.ofBytes opcode 0 0).operandBytes = n)
    (h : [op1, op2].take n = [op1', op2'].take n) :
    Instr.ofBytes opcode op1 op2 = Instr.ofBytes opcode op1' op2' := by
  by_cases hzero : opcode = 0
  · subst hzero; rfl
  · apply encode_injective (wellFormed_ofBytes _ _ _) (wellFormed_ofBytes _ _ _)
    rw [encode_ofBytes hzero, encode_ofBytes hzero, operandBytes_ofBytes opcode op1 op2 0 0,
      operandBytes_ofBytes opcode op1' op2' 0 0, hcount, h]

/-- Three bytes decode to the instruction they make, and leave what is past its length. -/
theorem decode_threeBytes (opcode op1 op2 : Byte) (rest : List Byte) :
    decode (opcode :: op1 :: op2 :: rest) = .ok (Instr.ofBytes opcode op1 op2,
      (op1 :: op2 :: rest).drop ((Instr.ofBytes opcode op1 op2).length - 1)) := by
  by_cases hzero : opcode = 0
  · subst hzero; rfl
  · have hne : Instr.ofBytes opcode op1 op2 ≠ .brk := fun hbrk => hzero (opcode_of_ofBytes_eq_brk hbrk)
    have hcount := Instr.operandBytes_le (Instr.ofBytes opcode op1 op2)
    rw [Instr.length_of_ne_brk hne, Nat.add_sub_cancel, ← decode_encode _ _ (wellFormed_ofBytes opcode op1 op2),
      encode_ofBytes hzero]
    generalize (Instr.ofBytes opcode op1 op2).operandBytes = n at *
    interval_cases n <;> rfl

/-- What decodes: an opcode and as many operand bytes as its length asks for, and what follows them. -/
theorem decode_eq_ok {bytes rest : List Byte} {i : Instr} (h : decode bytes = .ok (i, rest)) :
    ∃ opcode op1 op2, i = Instr.ofBytes opcode op1 op2 ∧ bytes = opcode :: ([op1, op2].take (i.length - 1) ++ rest) := by
  unfold decode at h
  split at h
  next => cases h
  next opcode tail =>
    split at h
    next hlength =>
      cases h
      exact ⟨opcode, 0, 0, rfl, by rw [hlength]; rfl⟩
    next op1 rest' hlength =>
      cases h
      exact ⟨opcode, op1, 0, rfl, by rw [length_ofBytes opcode op1 0 0 0, hlength]; rfl⟩
    next op1 op2 rest' hlength =>
      cases h
      exact ⟨opcode, op1, op2, rfl, by rw [length_ofBytes opcode op1 op2 0 0, hlength]; rfl⟩
    next => cases h

/-- The length that the statements give by mode is the model's (R131). -/
theorem lengthByMode_eq (i : Instr) : lengthByMode i = i.length := by
  by_cases h : i = .brk
  · subst h; rfl
  · rw [lengthByMode, if_neg h, Instr.length, Instr.padBytes, if_neg h]
    cases i.mode <;> rfl

end Sys2Proof

namespace Sys2Proof.Claims

open Sys2Proof.Machine

/-- Settles O1: each of the nine words is decoded by computing. -/
theorem wordsDecodeAsWritten : Obligations.WordsDecodeAsWritten :=
  ⟨rfl, rfl, rfl, rfl, rfl, rfl, rfl, rfl, rfl⟩

/-- Settles O2: `decode_encode`. -/
theorem decodeEncodeRoundTrip : Obligations.DecodeEncodeRoundTrip := decode_encode

/-- Settles O3: what decodes is made of an opcode and operand bytes, which its encoding repeats; BRK's opcode is 0x00. -/
theorem encodeDecodeRoundTrip : Obligations.EncodeDecodeRoundTrip := by
  intro bytes i rest h
  obtain ⟨opcode, op1, op2, rfl, rfl⟩ := decode_eq_ok h
  refine ⟨wellFormed_ofBytes opcode op1 op2, fun hne => ?_, fun hbrk => ?_⟩
  · have hzero : opcode ≠ 0 := by rintro rfl; exact hne rfl
    rw [encode_ofBytes hzero, Instr.length_of_ne_brk hne]
    rfl
  · obtain rfl := opcode_of_ofBytes_eq_brk hbrk
    exact ⟨op1, rfl⟩

/-- Settles O4: the instruction that the three bytes make. -/
theorem everyOpcodeByteDecodes : Obligations.EveryOpcodeByteDecodes := by
  intro opcode op1 op2 rest
  refine ⟨Instr.ofBytes opcode op1 op2, ?_, wellFormed_ofBytes opcode op1 op2, fun b1 b2 => ?_⟩
  · rw [lengthByMode_eq, decode_threeBytes]
  · rw [lengthByMode_eq, length_ofBytes]

/-- Settles O5: an undocumented byte is its own encoding, so decoding gives it back (O2), and what decodes to UNDOC is encoded
as the byte it came from (O3). -/
theorem undocumentedBytesDecode : Obligations.UndocumentedBytesDecode := by
  refine ⟨rfl, by decide, fun b rest => ⟨fun hb => ⟨?_, rfl⟩, fun c r hdecode => ?_⟩⟩
  · exact decode_encode (.undoc b) rest (undoc_cell hb 0 0).wellFormed
  · obtain ⟨hwellFormed, hencode, -⟩ := encodeDecodeRoundTrip _ _ _ hdecode
    obtain ⟨rfl, -⟩ := List.cons.inj (hencode nofun)
    exact ⟨rfl, List.contains_iff_mem.mp hwellFormed⟩

end Sys2Proof.Claims

/-! PROOFS. The step fetches what the bytes at PC decode to, and every step answers (O7, O8, O16). -/

namespace Sys2Proof.Machine

open Sys2Proof.Claims

/-! ### The fetch -/

section
variable {s s1 s2 s3 : State} {opcode op1 op2 : Byte}

/-- A fetch that reads no operand byte (R170): an instruction of the opcode alone, and BRK with its unread pad byte. -/
theorem State.fetch_noOperand (h : s.memRead s.pc = .done opcode s1)
    (hcount : (Instr.ofBytes opcode 0 0).operandBytes = 0) :
    s.fetch = .done (Instr.ofBytes opcode 0 0)
      (s1.setPc (s.pc + BitVec.ofNat 16 (Instr.ofBytes opcode 0 0).length)) := by
  simp only [State.fetch, State.fetchOperands, h, hcount, Access.bind_done]

/-- A fetch that reads one operand byte (R170). -/
theorem State.fetch_oneOperand (h : s.memRead s.pc = .done opcode s1) (h1 : s1.memRead (s.pc + 1) = .done op1 s2)
    (hcount : (Instr.ofBytes opcode 0 0).operandBytes = 1) :
    s.fetch = .done (Instr.ofBytes opcode op1 0)
      (s2.setPc (s.pc + BitVec.ofNat 16 (Instr.ofBytes opcode op1 0).length)) := by
  simp only [State.fetch, State.fetchOperands, h, h1, hcount, Access.bind_done]

/-- A fetch that reads two operand bytes (R170). -/
theorem State.fetch_twoOperands (h : s.memRead s.pc = .done opcode s1) (h1 : s1.memRead (s.pc + 1) = .done op1 s2)
    (h2 : s2.memRead (s.pc + 2) = .done op2 s3) (hcount : (Instr.ofBytes opcode 0 0).operandBytes = 2) :
    s.fetch = .done (Instr.ofBytes opcode op1 op2)
      (s3.setPc (s.pc + BitVec.ofNat 16 (Instr.ofBytes opcode op1 op2).length)) := by
  simp only [State.fetch, State.fetchOperands, h, h1, h2, hcount, Access.bind_done]

/-- A fetch reads a byte of memory and changes nothing. -/
theorem State.memRead_of_codeByte {a : Word} {v : Byte} (h : codeByte s a v) : s.memRead a = .done v s :=
  State.memRead_byteAt h.1 h.2

/-- A fetch from memory reads the instruction that the bytes make and changes PC alone (R35, R170). -/
theorem State.fetch_codeBytes (h : codeByte s s.pc opcode)
    (h1 : 1 ≤ (Instr.ofBytes opcode op1 op2).operandBytes → codeByte s (s.pc + 1) op1)
    (h2 : 2 ≤ (Instr.ofBytes opcode op1 op2).operandBytes → codeByte s (s.pc + 2) op2) :
    s.fetch = .done (Instr.ofBytes opcode op1 op2)
      (s.setPc (s.pc + BitVec.ofNat 16 (Instr.ofBytes opcode op1 op2).length)) := by
  rw [operandBytes_ofBytes opcode op1 op2 0 0] at h1 h2
  have hread := State.memRead_of_codeByte h
  have hcount := Instr.operandBytes_le (Instr.ofBytes opcode 0 0)
  generalize hn : (Instr.ofBytes opcode 0 0).operandBytes = n at h1 h2 hcount
  interval_cases n
  · have hunread : Instr.ofBytes opcode op1 op2 = Instr.ofBytes opcode 0 0 := ofBytes_congr hn rfl
    rw [hunread]
    exact State.fetch_noOperand hread hn
  · have hunread : Instr.ofBytes opcode op1 op2 = Instr.ofBytes opcode op1 0 := ofBytes_congr hn rfl
    rw [hunread]
    exact State.fetch_oneOperand hread (State.memRead_of_codeByte (h1 (by decide))) hn
  · exact State.fetch_twoOperands hread (State.memRead_of_codeByte (h1 (by decide)))
      (State.memRead_of_codeByte (h2 (by decide))) hn

end

/-! ### Every instruction answers -/

/-- The instruction or the step answers a next state. -/
def AnswersNext (r : Result) : Prop := ∃ t, r = .next t

theorem answersNext_next (t : State) : AnswersNext (.next t) := ⟨t, rfl⟩

theorem Access.andThen_answersNext {α : Type} (r : Access α) {k : α → State → Result}
    (hk : ∀ v s, AnswersNext (k v s)) : AnswersNext (r.andThen k) := by
  cases r with
  | done v s => exact hk v s
  | faulted t => exact answersNext_next t

theorem branchThen_answersNext (cond : Bool) (disp : Byte) (base : Nat) (s : State) :
    AnswersNext (branchThen cond disp base s) := ⟨_, branchThen_eq cond disp base s⟩

/-- No instruction stops: each is an update, or an access whose answer, or whose fault, ends in a state. -/
theorem exec_answersNext (i : Instr) (s : State) : AnswersNext (exec i s) := by
  unfold exec
  cases i with
  | bcc | bcs | beq | bne | bmi | bpl | bvc | bvs => exact branchThen_answersNext _ _ _ s
  | adc | sbc | and | ora | eor | bit | cmp | cpx | cpy | lda | ldx | ldy | sta | stx | sty | inc | dec | asl | lsr | rol
  | ror | jmp | brk | rts | rti | pla | plp => exact Access.andThen_answersNext _ fun _ _ => answersNext_next _
  | jsr | pha | php | clc | sec | cli | sei | cld | sed | clv | tax | tay | txa | tya | tsx | txs | inx | iny | dex | dey
  | nop | undoc => exact answersNext_next _

/-- No step stops (R163, R500). -/
theorem step_answersNext (s : State) : AnswersNext (step s) := by
  unfold step
  split
  · exact answersNext_next s
  · split
    · exact Access.andThen_answersNext _ fun _ _ => answersNext_next _
    · split
      · exact Access.andThen_answersNext _ fun _ _ => answersNext_next _
      · exact Access.andThen_answersNext _ exec_answersNext

end Sys2Proof.Machine

namespace Sys2Proof.Claims

open Sys2Proof.Machine

/-- Settles O7: three bytes decode to the instruction they make, and a fetch from memory reads the same. -/
theorem stepRunsDecodedInstruction : Obligations.StepRunsDecodedInstruction := by
  intro s b0 b1 b2 i rest hquiet hdecode h h1 h2
  rw [decode_threeBytes] at hdecode
  cases hdecode
  rw [step_of_quiet hquiet, State.fetch_codeBytes h h1 h2]
  rfl

/-- Settles O8: the three branches of a step, and the fetch by its number of operand bytes. -/
theorem stepOrderAndFetch : Obligations.StepOrderAndFetch := by
  refine ⟨fun s => step_of_nmi, fun s => step_of_irq, fun s => step_of_quiet, fun s s1 opcode h => ?_⟩
  refine ⟨State.fetch_noOperand h, fun op1 s2 h1 => ⟨State.fetch_oneOperand h h1, fun op2 s3 h2 => ?_⟩⟩
  exact State.fetch_twoOperands h h1 h2

/-- Settles O16: no instruction and no step stops. -/
theorem everyStepAnswersNext : Obligations.EveryStepAnswersNext := ⟨exec_answersNext, step_answersNext⟩

end Sys2Proof.Claims

/-! PROOFS. What the operand of an instruction can change and where it can fault (O27, O28, O38 to O40).
`KeepsByteNext` carries the frame of one byte through the shared shapes of a meaning: what neither stores nor pushes only reads,
and a store writes one byte at the effective address of its operand. -/

namespace Sys2Proof.Machine

open Sys2Proof.Claims

/-! ### One byte of memory over an instruction -/

/-- A write to an NROM-style cartridge changes no other byte of it (R540). -/
theorem Nrom.read_write_of_ne {a b : Word} (h : a ≠ b) (r : Nrom) (v : Byte) : (r.write b v).read a = r.read a := by
  have hne : a.toNat ≠ b.toNat := fun e => h (BitVec.eq_of_toNat_eq e)
  by_cases hb : r.ramSelected b = true
  · have hwrite : r.write b v = { r with prgRam := r.prgRam.write cartridgeBlank (b.toNat - 0x6000) v } := if_pos hb
    rw [hwrite, Nrom.read, Nrom.read]
    refine ite_congr rfl (fun _ => rfl) fun _ => ite_congr rfl (fun (ha : r.ramSelected a = true) => ?_) fun _ => rfl
    simp only [Nrom.ramSelected, Bool.and_eq_true, decide_eq_true_eq] at ha hb
    have hoffset : b.toNat - 0x6000 ≠ a.toNat - 0x6000 := by omega
    rw [cartridgeByte, Memory.lookup_write_of_ne hoffset, cartridgeByte]
  · have hwrite : r.write b v = r := if_neg hb
    rw [hwrite]

section
variable {a b : Word} {s t u : State}

/-- A load of a memory operand is one read at its effective address (R153). -/
theorem State.load_memory {m : Address} {r : Resolved} (hr : s.resolve m = .done r s) :
    s.load (.memory m) = (s.memRead r.ea).bind fun v s1 => .done ⟨v, r.crossed⟩ s1 := by
  rw [State.load, State.loadAddress, hr, Access.bind_done]

/-- A byte write keeps every byte but those of its cell (R82, R83). -/
theorem State.memWrite_keepsByte {v : Byte} (h : ¬ sameCell a b) : KeepsByte a s (s.memWrite b v) := by
  rcases s.memWrite_cases b v with ⟨hb, hwrite⟩ | ⟨-, hwrite⟩ | ⟨-, hwrite⟩ <;> rw [hwrite]
  · exact State.ramWrite_keepsByte hb h
  · exact keepsByte_of_eq rfl rfl rfl
  · refine ⟨fun _ => rfl, fun r hr => ⟨r.write b v, ?_, Nrom.read_write_of_ne (fun e => h (.inl e)) r v⟩⟩
    rw [State.setMapper_mapper, hr, Mapper.afterWrite]

theorem State.load_keepsByte {src : Source} {l : Loaded} (h : s.load src = .done l t) : KeepsByte a s t := by
  cases src with
  | immediate v =>
    cases h
    exact keepsByte_of_eq rfl rfl rfl
  | memory m =>
    obtain ⟨r, hr⟩ := s.resolve_done m
    rw [State.load_memory hr] at h
    obtain ⟨v, s1, hread, ⟨⟩⟩ := Access.bind_eq_done.mp h
    exact State.memRead_keepsByte hread

theorem State.jumpTarget_keepsByte {target : JumpTarget} {w : Word} (h : s.jumpTarget target = .done w t) :
    KeepsByte a s t := by
  cases target with
  | absolute =>
    cases h
    exact keepsByte_of_eq rfl rfl rfl
  | indirect => exact State.readPair_keepsByte h

/-- If the instruction answers r from s and meets no unmapped address, it keeps the byte. -/
def KeepsByteNext (a : Word) (s : State) (r : Result) : Prop :=
  ∀ t, r = .next t → t.running = true → KeepsByte a s t

theorem keepsByteNext_next (h : KeepsByte a s t) : KeepsByteNext a s (.next t) := by
  rintro _ ⟨⟩ -
  exact h

/-- A meaning that reads and then updates neither RAM nor the mapper keeps every byte. -/
theorem Access.OnlyReads.andThen_keepsByte {α : Type} {r : Access α} {k : α → State → State} (hr : r.OnlyReads s)
    (hdone : ∀ v u, r = .done v u → KeepsByte a s u) (hk : ∀ v u, KeepsByte a u (k v u)) :
    KeepsByteNext a s (r.andThen fun v u => .next (k v u)) := by
  intro t h ht
  rcases Access.andThen_eq_next.mp h with hfault | ⟨v, u, hread, ⟨⟩⟩
  · obtain ⟨u, b, -, rfl⟩ := hr.faulted hfault
    simp at ht
  · exact (hdone v u hread).trans (hk v u)

/-- A meaning whose access is known to answer keeps the byte if its updates do. -/
theorem andThen_keepsByte_of_done {α : Type} {r : Access α} {v : α} {k : α → State → State} (hr : r = .done v u)
    (hk : KeepsByte a s (k v u)) : KeepsByteNext a s (r.andThen fun v u => .next (k v u)) := by
  rw [hr]
  exact keepsByteNext_next hk

theorem branchThen_keepsByte {cond : Bool} {disp : Byte} {base : Nat} :
    KeepsByteNext a s (branchThen cond disp base s) := by
  cases cond <;> exact keepsByteNext_next (keepsByte_of_eq rfl rfl rfl)

theorem storeThen_keepsByte {m : Address} {r : Resolved} {base : Nat} {v : Byte} (hr : s.resolve m = .done r s)
    (h : ¬ sameCell a r.ea) : KeepsByteNext a s (storeThen m base v s) := by
  obtain ⟨r', hr', hstore⟩ := storeThen_eq (m := m) (base := base) (v := v) (s := s)
  cases hr.symm.trans hr'
  rw [hstore]
  exact keepsByteNext_next ((State.memWrite_keepsByte h).trans (keepsByte_of_eq rfl rfl rfl))

/-- A read-modify-write keeps every byte but those of the cell it writes back to (R258). -/
theorem modifyAddress_keepsByte {m : Address} {r : Resolved} {base : Nat} {f : Byte → State → Byte × State}
    (hr : s.resolve m = .done r s) (h : ¬ sameCell a r.ea) (hf : ∀ v u, KeepsByte a u (f v u).2) :
    KeepsByteNext a s ((s.modifyAddress m f).andThen fun _ u => .next (u.addCycles base)) := by
  rcases modifyAddress_cases (m := m) (f := f) (s := s) with ⟨r', v, u, hr', hread, -, hdone⟩ | ⟨r', u, -, -, -, hfault⟩
  · cases hr.symm.trans hr'
    have hwritten : KeepsByte a s ((f v u).2.memWrite r.ea (f v u).1) :=
      ((State.memRead_keepsByte hread).trans (hf v u)).trans (State.memWrite_keepsByte h)
    exact andThen_keepsByte_of_done hdone (hwritten.trans (keepsByte_of_eq rfl rfl rfl))
  · rw [hfault]
    rintro _ ⟨⟩ hrunning
    simp at hrunning

end

/-- An instruction that neither stores nor pushes keeps every byte. -/
theorem exec_keepsByte_of_no_store {i : Instr} (hstored : storedOf i = none) (hpushed : pushedBytes i = 0) (a : Word)
    (s : State) : KeepsByteNext a s (exec i s) := by
  unfold exec
  cases i with
  | adc | sbc | and | ora | eor | bit | cmp | cpx | cpy | lda | ldx | ldy =>
    exact (s.load_onlyReads _).andThen_keepsByte (fun _ _ => State.load_keepsByte) fun _ _ => keepsByte_of_eq rfl rfl rfl
  | jmp target =>
    exact (s.jumpTarget_onlyReads target).andThen_keepsByte (fun _ _ => State.jumpTarget_keepsByte) fun _ _ =>
      keepsByte_of_eq rfl rfl rfl
  | rts => exact andThen_keepsByte_of_done s.pullWord_eq (keepsByte_of_eq rfl rfl rfl)
  | rti => exact andThen_keepsByte_of_done s.returnFromHandler_eq (keepsByte_of_eq rfl rfl rfl)
  | pla | plp => exact andThen_keepsByte_of_done s.pull_eq (keepsByte_of_eq rfl rfl rfl)
  | bcc | bcs | beq | bne | bmi | bpl | bvc | bvs => exact branchThen_keepsByte
  | asl p | lsr p | rol p | ror p =>
    cases p with
    | accumulator => exact keepsByteNext_next (keepsByte_of_eq rfl rfl rfl)
    | memory => cases hstored
  | clc | sec | cli | sei | cld | sed | clv | tax | tay | txa | tya | tsx | txs | inx | iny | dex | dey | nop | undoc =>
    exact keepsByteNext_next (keepsByte_of_eq rfl rfl rfl)
  | sta | stx | sty | inc | dec => cases hstored
  | pha | php | jsr | brk => cases hpushed

/-- A store or a read-modify-write keeps every byte but those of the cell at its effective address. -/
theorem exec_keepsByte_of_store {i : Instr} {m : Address} {s : State} {r : Resolved} {a : Word}
    (hstored : storedOf i = some m) (hr : s.resolve m = .done r s) (h : ¬ sameCell a r.ea) :
    KeepsByteNext a s (exec i s) := by
  unfold exec
  cases i with
  | sta | stx | sty =>
    cases hstored
    exact storeThen_keepsByte hr h
  | inc | dec =>
    cases hstored
    exact modifyAddress_keepsByte hr h fun _ _ => keepsByte_of_eq rfl rfl rfl
  | asl p | lsr p | rol p | ror p =>
    cases p with
    | accumulator => cases hstored
    | memory =>
      cases hstored
      exact modifyAddress_keepsByte hr h fun _ _ => keepsByte_of_eq rfl rfl rfl
  | _ => cases hstored

/-! ### The fault of an operand read -/

section
variable {s t : State}

/-- A read that faults marks its address, unless a fault was marked before (R52, R501). -/
theorem State.fault_of_memRead_faulted {a : Word} (h : s.memRead a = .faulted t) : t.fault = some (s.fault.getD a) := by
  rcases s.memRead_cases a with ⟨v, u, hread, -⟩ | ⟨u, hread, hs⟩
  · cases hread.symm.trans h
  · cases hread.symm.trans h
    rw [State.raiseFault_fault, hs.fault]

/-- A load that faults is of a memory operand, and the fault is that of reading its effective address. -/
theorem State.load_eq_faulted {src : Source} (h : s.load src = .faulted t) :
    ∃ m r, src = .memory m ∧ s.resolve m = .done r s ∧ s.memRead r.ea = .faulted t := by
  cases src with
  | immediate v => cases h
  | memory m =>
    obtain ⟨r, hr⟩ := s.resolve_done m
    rw [State.load_memory hr] at h
    rcases Access.bind_eq_faulted.mp h with hread | ⟨v, u, -, hdone⟩
    · exact ⟨m, r, rfl, hr, hread⟩
    · cases hdone

/-- A word read that faults did so at its low byte, or at its high byte after the low byte was read. -/
theorem State.readPair_eq_faulted {lo hi : Word} (h : s.readPair lo hi = .faulted t) :
    s.memRead lo = .faulted t ∨ ∃ v s1, s.memRead lo = .done v s1 ∧ s1.memRead hi = .faulted t := by
  rcases Access.bind_eq_faulted.mp h with hlo | ⟨v, s1, hlo, h⟩
  · exact .inl hlo
  · rcases Access.bind_eq_faulted.mp h with hhi | ⟨w, s2, -, hdone⟩
    · exact .inr ⟨v, s1, hlo, hhi⟩
    · cases hdone

theorem readThen_of_load_faulted {src : Source} {base : Nat} {penalty : Bool → Nat} {effect : Byte → State → State}
    (h : s.load src = .faulted t) : readThen src base penalty effect s = .next t := by
  rw [readThen, h, Access.andThen_faulted]

theorem modifyAddress_of_memRead_faulted {m : Address} {r : Resolved} {f : Byte → State → Byte × State}
    {k : Unit → State → Result} (hr : s.resolve m = .done r s) (h : s.memRead r.ea = .faulted t) :
    (s.modifyAddress m f).andThen k = .next t := by
  rw [State.modifyAddress, hr, Access.bind_done, h, Access.bind_faulted, Access.andThen_faulted]

theorem exec_of_load_faulted {i : Instr} {src : Source} (hsource : sourceOf i = some src)
    (h : s.load src = .faulted t) : exec i s = .next t := by
  unfold exec
  cases i with
  | adc | sbc | and | ora | eor | bit | cmp | cpx | cpy | lda | ldx | ldy =>
    cases hsource
    exact readThen_of_load_faulted h
  | _ => cases hsource

theorem exec_of_modify_faulted {i : Instr} {m : Address} {r : Resolved} (hmodified : modifiedOf i = some m)
    (hr : s.resolve m = .done r s) (h : s.memRead r.ea = .faulted t) : exec i s = .next t := by
  unfold exec
  cases i with
  | inc | dec =>
    cases hmodified
    exact modifyAddress_of_memRead_faulted hr h
  | asl p | lsr p | rol p | ror p =>
    cases p with
    | accumulator => cases hmodified
    | memory =>
      cases hmodified
      exact modifyAddress_of_memRead_faulted hr h
  | _ => cases hmodified

end

end Sys2Proof.Machine

namespace Sys2Proof.Claims

open Sys2Proof.Machine

/-- Settles O27: `exec_keepsByte_of_no_store`. -/
theorem otherInstructionsKeepMemory : Obligations.OtherInstructionsKeepMemory := by
  intro i s t hstored hpushed _ hexec ht a
  exact (exec_keepsByte_of_no_store hstored hpushed a s t hexec ht).sameByte

/-- Settles O28: `exec_keepsByte_of_store`. -/
theorem storesKeepOtherBytes : Obligations.StoresKeepOtherBytes := by
  intro i m s t r hstored hr _ hexec ht a ha
  exact (exec_keepsByte_of_store hstored hr ha t hexec ht).sameByte

/-- Settles O38: a mode without a pointer adds its index, and a pointer is read in the zero page. -/
theorem effectiveAddresses : Obligations.EffectiveAddresses := by
  intro s a w
  simp only [wordOf_zero]
  refine ⟨rfl, rfl, rfl, rfl, rfl, rfl, ?_, ?_⟩
  · rw [State.resolve, State.readWordPW_zeroPage]; rfl
  · rw [State.resolve, State.readWordPW_zeroPage]; rfl

/-- Settles O39: an immediate byte is at hand, and a memory operand is one read. -/
theorem operandLoad : Obligations.OperandLoad := by
  intro s v m r hr
  refine ⟨rfl, fun b s1 hread => ?_, fun t hread => ?_⟩
  · rw [State.load_memory hr, hread, Access.bind_done]
  · rw [State.load_memory hr, hread, Access.bind_faulted]

/-- Settles O40: an access that faults ends the instruction, and its mark is the address of the byte read that faulted. -/
theorem operandFaultEndsTheInstruction : Obligations.OperandFaultEndsTheInstruction := by
  refine ⟨fun i src s t hsource hload => ?_, fun i m s t r hmodified hr hread => ?_, fun p s t hpointer => ?_⟩
  · obtain ⟨m, r, rfl, hr, hread⟩ := State.load_eq_faulted hload
    have hmark := State.fault_of_memRead_faulted hread
    exact ⟨exec_of_load_faulted hsource hload, by simp [hmark], m, r, rfl, hr, fun hnone => by simp [hmark, hnone]⟩
  · have hmark := State.fault_of_memRead_faulted hread
    exact ⟨exec_of_modify_faulted hmodified hr hread, fun hnone => by simp [hmark, hnone]⟩
  · have hexec : exec (.jmp (.indirect p)) s = .next t := by
      simp only [exec, execJmp, State.jumpTarget, hpointer, Access.andThen_faulted]
    rw [← nextInPage_eq]
    rcases State.readPair_eq_faulted hpointer with hlo | ⟨v, s1, hlo, hhi⟩
    · have hmark := State.fault_of_memRead_faulted hlo
      exact ⟨hexec, by simp [hmark], fun hnone _ _ => by simp [hmark, hnone], fun _ _ _ h => by simp [hlo] at h⟩
    · have hmark := State.fault_of_memRead_faulted hhi
      rw [((s.memRead_onlyReads p).done hlo).fault] at hmark
      exact ⟨hexec, by simp [hmark], fun _ _ h => by simp [hlo] at h, fun hnone _ _ _ => by simp [hmark, hnone]⟩

end Sys2Proof.Claims

/-! PROOFS. ADC and SBC (O26, O41 to O45). The laws of `adcResult`, `adcSum` and `signedOverflow` say in exact arithmetic what
an addition gives; SBC adds the complement, so its laws are these read at `sbcOperand`. `encodedAs_of_forms` gives an
operation's row of encodings from its row of R161, and `readThen_setDecimal` compares the two runs of O26. -/

namespace Sys2Proof.Machine

open Sys2Proof.Claims

/-! ### The row of an operation -/

/-- An operation with one entry of the table R161 for each of its modes is encoded as these entries say. -/
theorem encodedAs_of_forms {α : Type} {mode : α → Mode} {bytes : α → List Byte} {i : α → Instr}
    {row : List (Mode × Byte)} (hmode : ∀ x, (i x).mode = mode x) (hbytes : ∀ x, (i x).tailBytes = bytes x)
    (hforms : ∀ x, ((i x).forms.map fun f => (f.mode, f.opcode)) = row) (hmodes : ∀ x, (i x).modes = row.map Prod.fst)
    (hnodup : (row.map Prod.fst).Nodup) : encodedAs mode bytes i row := by
  refine fun x => ⟨fun p hp hx => ?_, fun hx => ?_⟩
  · obtain ⟨f, hf, rfl⟩ : ∃ f ∈ (i x).forms, (f.mode, f.opcode) = p := by simpa [← hforms x] using hp
    have hunique : ((i x).forms.map Form.mode).Nodup := by simpa [← hforms x, Function.comp_def] using hnodup
    have hform : (i x).form? = some f := by
      cases hfind : (i x).form? with
      | none => simpa [hmode, hx] using List.find?_eq_none.mp hfind f hf
      | some g =>
        have hg : g.mode = f.mode := by simpa [hmode, hx] using List.find?_some hfind
        rw [List.inj_on_of_nodup_map hunique (List.mem_of_find?_eq_some hfind) hf hg]
    simp [encode, hform, hbytes]
  · have hnone : mode x ∉ row.map Prod.fst := by
      intro hmem
      obtain ⟨p, hp, hpx⟩ := List.mem_map.mp hmem
      exact hx p hp hpx.symm
    simp [Instr.wellFormed, Instr.modeAllowed, hmodes, hmode, hnone]

/-! ### The carry and the borrow as numbers -/

theorem carry_toNat (c : Bool) : (if c then 1 else 0) = c.toNat := by cases c <;> rfl

theorem borrow_toNat (c : Bool) : (if c then 0 else 1) = (!c).toNat := by cases c <;> rfl

theorem carry_add_borrow (c : Bool) : c.toNat + (!c).toNat = 1 := by cases c <;> rfl

/-! ### The sum of R200 in exact arithmetic -/

section
variable (a m : Byte) (c : Bool)

theorem adcResult_toNat : (adcResult a m c).toNat = (a.toNat + m.toNat + c.toNat) % 256 := BitVec.toNat_ofNat _ _

theorem adcResult_eq : adcResult a m c = a + m + BitVec.ofNat 8 c.toNat := by
  rw [adcResult, adcSum, BitVec.ofNat_add, BitVec.ofNat_add, BitVec.ofNat_toNat, BitVec.ofNat_toNat, BitVec.setWidth_eq,
    BitVec.setWidth_eq]

/-- Masking with 0x80 leaves the sign bit alone. -/
theorem and_0x80_ne_zero (v : Byte) : (v &&& 0x80 != 0) = v.msb := by
  revert v; decide

/-- The overflow of R200: the operands have one sign and the result has the other. -/
theorem signedOverflow_iff (r : Byte) : signedOverflow a m r = true ↔ a.msb = m.msb ∧ a.msb ≠ r.msb := by
  rw [signedOverflow, and_0x80_ne_zero, BitVec.msb_and, BitVec.msb_not, BitVec.msb_xor, BitVec.msb_xor]
  simp

/-- V after ADC is signed overflow: the exact sum of the signed operands is no signed byte (R203). -/
theorem signedOverflow_adcResult :
    signedOverflow a m (adcResult a m c) = true ↔
      a.toInt + m.toInt + c.toNat < -128 ∨ 127 < a.toInt + m.toInt + c.toNat := by
  have ha : a.toNat < 256 := a.isLt
  have hm : m.toNat < 256 := m.isLt
  have hc : c.toNat ≤ 1 := c.toNat_le
  simp only [signedOverflow_iff, BitVec.msb_eq_decide, adcResult_toNat, BitVec.toInt_eq_toNat_cond, decide_eq_decide, ne_eq]
  omega

/-! ### The complement of R201 -/

theorem sbcOperand_eq_not : sbcOperand m = ~~~m := BitVec.allOnes_xor

theorem sbcOperand_toNat : (sbcOperand m).toNat = 255 - m.toNat := by
  rw [sbcOperand_eq_not, BitVec.toNat_not]

theorem sbcOperand_toInt : (sbcOperand m).toInt = -m.toInt - 1 := by
  have hm : m.toNat < 256 := m.isLt
  rw [BitVec.toInt_eq_toNat_cond, BitVec.toInt_eq_toNat_cond, sbcOperand_toNat]
  omega

/-- SBC subtracts M and the borrow, which is the complement of C (R201). -/
theorem adcResult_sbcOperand : adcResult a (sbcOperand m) c = a - m - BitVec.ofNat 8 (!c).toNat := by
  have hm : sbcOperand m = -m - 1 := (sbcOperand_eq_not m).trans (BitVec.not_eq_neg_add m)
  rw [adcResult_eq, hm]
  cases c <;> simp [BitVec.sub_eq_add_neg, BitVec.add_assoc]

/-- The inverse law (R204): SBC of M with the complemented carry takes back what ADC of M added. -/
theorem adcResult_sbcOperand_adcResult : adcResult (adcResult a m c) (sbcOperand m) (!c) = a := by
  rw [adcResult_sbcOperand, adcResult_eq, Bool.not_not]
  abel

/-- C after SBC is no borrow (R203). -/
theorem adcSum_sbcOperand_gt_iff : 0xFF < adcSum a (sbcOperand m) c ↔ m.toNat + (!c).toNat ≤ a.toNat := by
  have hm : m.toNat < 256 := m.isLt
  have hc := carry_add_borrow c
  rw [adcSum, sbcOperand_toNat]
  omega

/-- V after SBC: the exact signed difference is no signed byte (R203). -/
theorem signedOverflow_sbcOperand :
    signedOverflow a (sbcOperand m) (adcResult a (sbcOperand m) c) = true ↔
      a.toInt - m.toInt - (!c).toNat < -128 ∨ 127 < a.toInt - m.toInt - (!c).toNat := by
  have hc := carry_add_borrow c
  rw [signedOverflow_adcResult, sbcOperand_toInt]
  omega

end

/-! ### The two meanings -/

section
variable {src : Source} {s s1 t : State} {l : Loaded}

theorem readThen_of_load_done {base : Nat} {penalty : Bool → Nat} {effect : Byte → State → State}
    (h : s.load src = .done l s1) :
    readThen src base penalty effect s = .next ((effect l.value s1).addCycles (base + penalty l.crossed)) := by
  rw [readThen, h, Access.andThen_done]

/-- ADC, once its operand is loaded (R200). -/
theorem exec_adc_of_load (h : s.load src = .done l s1) :
    exec (.adc src) s = .next ((s1.addWithCarry l.value).addCycles ((Instr.adc src).baseCycles + penaltyOf l)) := by
  rw [exec, execAdc, readThen_of_load_done h]
  rfl

/-- SBC, once its operand is loaded: ADC of the complement (R201). -/
theorem exec_sbc_of_load (h : s.load src = .done l s1) :
    exec (.sbc src) s =
      .next ((s1.addWithCarry (sbcOperand l.value)).addCycles ((Instr.sbc src).baseCycles + penaltyOf l)) := by
  rw [exec, execSbc, readThen_of_load_done h]
  rfl

/-- What adding with carry writes, in the words of R200. -/
theorem State.addWithCarry_eq (s : State) (m : Byte) :
    let sum := s.a.toNat + m.toNat + (if s.flags.c then 1 else 0)
    let r : Byte := BitVec.ofNat 8 sum
    s.addWithCarry m = { s with
      a := r
      flags := { s.flags with
        c := decide (sum > 0xFF)
        v := decide (~~~(s.a ^^^ m) &&& (s.a ^^^ r) &&& 0x80 ≠ 0)
        z := r == 0
        n := r.getLsbD 7 } } := by
  have hoverflow (a r : Byte) : signedOverflow a m r = decide (~~~(a ^^^ m) &&& (a ^^^ r) &&& 0x80 ≠ 0) := by
    exact Bool.eq_iff_iff.mpr (by simp [signedOverflow])
  simp only [carry_toNat, ← hoverflow]
  rfl

/-! ### The decimal flag -/

/-- The state with another D flag. -/
def State.setDecimal (d : Bool) (s : State) : State := s.setFlags { s.flags with d := d }

/-- No bus read looks at D. -/
theorem State.memRead_setDecimal {a : Word} {v : Byte} (d : Bool) (h : s.memRead a = .done v t) :
    (s.setDecimal d).memRead a = .done v (t.setDecimal d) := by
  cases ha : handlerOf a with
  | ram => rw [State.memRead_ram ha] at h ⊢; cases h; rfl
  | io => rw [State.memRead_io ha] at h ⊢; cases h; rfl
  | mapper =>
    cases hv : s.mapper.answer a with
    | none => simp [State.memRead_unmapped ha hv] at h
    | some w =>
      rw [State.memRead_mapper ha hv] at h
      rw [State.memRead_mapper ha (show (s.setDecimal d).mapper.answer a = some w from hv)]
      cases h
      rfl

/-- No effective address depends on D. -/
theorem State.resolve_setDecimal {m : Address} {r : Resolved} (d : Bool) (h : s.resolve m = .done r s) :
    (s.setDecimal d).resolve m = .done r (s.setDecimal d) := by
  cases m with
  | indexedIndirect p | indirectIndexed p =>
    rw [State.resolve, State.readWordPW_zeroPage] at h ⊢
    cases h
    rfl
  | _ => cases h; rfl

/-- No operand depends on D. -/
theorem State.load_setDecimal (d : Bool) (h : s.load src = .done l t) :
    (s.setDecimal d).load src = .done l (t.setDecimal d) := by
  cases src with
  | immediate v => cases h; rfl
  | memory m =>
    obtain ⟨r, hr⟩ := s.resolve_done m
    rw [State.load_memory hr] at h
    obtain ⟨v, u, hread, ⟨⟩⟩ := Access.bind_eq_done.mp h
    rw [State.load_memory (State.resolve_setDecimal d hr), State.memRead_setDecimal d hread, Access.bind_done]

/-- A read-class instruction whose effect does not look at D does not look at D. -/
theorem readThen_setDecimal {base : Nat} {penalty : Bool → Nat} {effect : Byte → State → State} (d : Bool)
    (h : readThen src base penalty effect s = .next t) (ht : t.running = true)
    (heffect : ∀ v u, effect v (u.setDecimal d) = (effect v u).setDecimal d) :
    readThen src base penalty effect (s.setDecimal d) = .next (t.setDecimal d) := by
  rcases readThen_cases h with ⟨l, u, hload, -, rfl⟩ | ⟨-, u, a, -, rfl⟩
  · rw [readThen_of_load_done (State.load_setDecimal d hload), heffect]
    rfl
  · simp at ht

end

end Sys2Proof.Machine

namespace Sys2Proof.Claims

open Sys2Proof.Machine

/-- Settles O26: neither the load of the operand nor the sum looks at D. -/
theorem decimalFlagHasNoEffect : Obligations.DecimalFlagHasNoEffect := by
  intro src s t d _ ht
  unfold exec
  exact ⟨fun h => readThen_setDecimal d h ht fun _ _ => rfl, fun h => readThen_setDecimal d h ht fun _ _ => rfl⟩

/-- Settles O43: the laws of the sum, read at the complement of the operand. -/
theorem sbcSubtractsWithBorrow : Obligations.SbcSubtractsWithBorrow := by
  intro src s s1 l hload
  simp only [borrow_toNat]
  refine ⟨_, exec_sbc_of_load hload, adcResult_sbcOperand _ _ _, ?_, signedOverflow_sbcOperand _ _ _⟩
  exact decide_eq_true_iff.trans (adcSum_sbcOperand_gt_iff _ _ _)

/-- Settles O44: the laws of the sum. -/
theorem adcFlagsAreOverflows : Obligations.AdcFlagsAreOverflows := by
  intro src s s1 l hload
  simp only [carry_toNat]
  exact ⟨_, exec_adc_of_load hload, signedOverflow_adcResult _ _ _, decide_eq_true_iff, adcResult_toNat _ _ _⟩

/-- Settles O45: `adcResult_sbcOperand_adcResult`, and Z and N are those of the result. -/
theorem adcThenSbcRestoresA : Obligations.AdcThenSbcRestoresA := by
  intro m s
  have hinverse := adcResult_sbcOperand_adcResult s.a m s.flags.c
  exact ⟨_, _, exec_adc_of_load rfl, exec_sbc_of_load rfl, hinverse, congrArg (· == 0) hinverse,
    congrArg (BitVec.getLsbD · 7) hinverse⟩

/-- Settles O41: the row of ADC in R161, and `State.addWithCarry_eq`. -/
theorem adcResult : Obligations.AdcResult := by
  refine ⟨encodedAs_of_forms (fun _ => rfl) (fun _ => rfl) (fun _ => rfl) (fun _ => rfl) (by decide), ?_⟩
  intro src s s1 l hload
  rw [exec_adc_of_load hload, State.addWithCarry_eq, State.addCycles, ← Nat.add_assoc]

/-- Settles O42: the row of SBC in R161, and `State.addWithCarry_eq` at the complement of the operand. -/
theorem sbcResult : Obligations.SbcResult := by
  refine ⟨encodedAs_of_forms (fun _ => rfl) (fun _ => rfl) (fun _ => rfl) (fun _ => rfl) (by decide), ?_⟩
  intro src s s1 l hload
  rw [exec_sbc_of_load hload, State.addWithCarry_eq, State.addCycles, ← Nat.add_assoc]
  rfl

end Sys2Proof.Claims

/-! PROOFS. The logic operations and BIT, the shifts and the rotates (O46, O47). The encodings are rows of R161 by
`encodedAs_of_forms`; the meanings follow from what the two shared shapes `readThen` and `shiftThen` answer once the operand
is read. -/

namespace Sys2Proof.Machine

open Sys2Proof.Claims

/-! ### The logic operations, once the operand is loaded -/

section
variable {s s1 : State} {l : Loaded}

/-- A read-class instruction that puts a byte in A, with Z and N from it. -/
theorem readThen_resultInA {src : Source} {base : Nat} {result : Byte → Byte → Byte} (h : s.load src = .done l s1) :
    readThen src base pagePenalty (fun m u => (u.setZN (result u.a m)).setA (result u.a m)) s =
      .next (spent (resultInA s1 (result s1.a l.value)) (base + penaltyOf l)) :=
  readThen_of_load_done h

/-- BIT, once its operand is loaded: only the flags and the cycles change, and no crossed page costs a cycle (R253). -/
theorem exec_bit_of_load {m : Address} (h : s.load (.memory m) = .done l s1) :
    exec (.bit m) s =
      .next ((s1.setFlags (s1.flags.afterBit s1.a l.value)).addCycles (Instr.baseCycles (.bit m))) := by
  rw [exec, execBit, readThen_of_load_done h]
  rfl

end

/-! ### A shift or rotate of A and of a memory cell -/

section
variable {s : State} {base : Nat} {shift : Shift}

/-- A shift of A makes no bus access, so it always answers. -/
theorem shiftThen_accumulator :
    shiftThen .accumulator base shift s =
      .next (spent { shiftFlags s (shift s.flags.c s.a).1 (shift s.flags.c s.a).2 with
        a := (shift s.flags.c s.a).2 } base) := rfl

/-- A shift of memory, once the cell is read: its result is written to the address it was read from (R258). -/
theorem shiftThen_memory {m : Address} {r : Resolved} {v : Byte} {s1 : State} (hr : s.resolve m = .done r s)
    (hread : s.memRead r.ea = .done v s1) :
    shiftThen (.memory m) base shift s =
      .next (spent ((shiftFlags s1 (shift s1.flags.c v).1 (shift s1.flags.c v).2).memWrite r.ea
        (shift s1.flags.c v).2) base) := by
  rw [shiftThen, State.modify, State.modifyAddress, hr, Access.bind_done, hread, Access.bind_done, Access.andThen_done]
  rfl

end

end Sys2Proof.Machine

namespace Sys2Proof.Claims

open Sys2Proof.Machine

/-- Settles O46: the rows of R161, and the operation applied to A and the loaded operand. -/
theorem logicResults : Obligations.LogicResults := by
  refine ⟨?and, ?ora, ?eor, ?bit, fun src s s1 l hload => ⟨?_, ?_, ?_⟩, fun m s s1 l hload => exec_bit_of_load hload⟩
  case and | ora | eor | bit =>
    exact encodedAs_of_forms (fun _ => rfl) (fun _ => rfl) (fun _ => rfl) (fun _ => rfl) (by decide)
  · exact readThen_resultInA (result := (· &&& ·)) hload
  · exact readThen_resultInA (result := (· ||| ·)) hload
  · exact readThen_resultInA (result := (· ^^^ ·)) hload

/-- Settles O47: the rows of R161, and what `shiftThen` answers on A and on a memory cell, at each of the four shifts. -/
theorem shiftResults : Obligations.ShiftResults := by
  refine ⟨?asl, ?lsr, ?rol, ?ror, fun s => ?accumulator, fun m s s1 r v hr hread => ?memory⟩
  case asl | lsr | rol | ror =>
    exact encodedAs_of_forms (fun _ => rfl) (fun _ => rfl) (fun _ => rfl) (fun _ => rfl) (by decide)
  case accumulator =>
    exact ⟨shiftThen_accumulator, shiftThen_accumulator, shiftThen_accumulator, shiftThen_accumulator⟩
  case memory =>
    exact ⟨shiftThen_memory hr hread, shiftThen_memory hr hread, shiftThen_memory hr hread, shiftThen_memory hr hread⟩

end Sys2Proof.Claims

/-! PROOFS. Branches, jumps, subroutines and the exceptions by instruction (O12, O14, O48 to O50). An exception entry is its
frame and then the vector read, for any vector; a word pulled at the pushed SP is the word pushed, which is why RTS undoes
JSR. -/

namespace Sys2Proof.Machine

open Sys2Proof.Claims

/-! ### A word on the stack -/

section
variable {s t : State} {w : Word}

/-- The two stack bytes of a pushed word are different cells, also where SP wraps (R95). -/
theorem ramCell_stackAddress_sub_one_ne (sp : Byte) : ramCell (stackAddress (sp - 1)) ≠ ramCell (stackAddress sp) := by
  rw [ramCell_stackAddress, ramCell_stackAddress]
  bv_omega

/-- A push of a word moves SP by 2 and changes nothing else but RAM (R91). -/
theorem State.pushWord_frame (s : State) (w : Word) :
    s.pushWord w = { s with ram := (s.pushWord w).ram, sp := s.sp - 2 } := by
  rw [State.pushWord_eq]
  rfl

@[simp] theorem State.pushWord_sp (s : State) (w : Word) : (s.pushWord w).sp = s.sp - 2 := by
  rw [State.pushWord_frame]

@[simp] theorem State.pushWord_ramDraw (s : State) (w : Word) : (s.pushWord w).ramDraw = s.ramDraw := by
  rw [State.pushWord_frame]

/-- A RAM read after a push of a word, the low byte pushed last (R83, R91). -/
theorem State.ramRead_pushWord (s : State) (w a : Word) :
    (s.pushWord w).ramRead a =
      if ramCell (stackAddress (s.sp - 1)) = ramCell a then lowByte w
      else if ramCell (stackAddress s.sp) = ramCell a then highByte w else s.ramRead a := by
  rw [State.pushWord_eq, ← State.ramRead_ramWrite, ← State.ramRead_ramWrite]
  rfl

/-- A pull at the SP and with the RAM that a push of a word left answers that word and restores SP. -/
theorem State.pullWord_of_pushed (hsp : t.sp = s.sp - 2) (hram : t.ram = (s.pushWord w).ram)
    (hdraw : t.ramDraw = s.ramDraw) : t.pullWord = .done w (t.setSp s.sp) := by
  have hread (a : Word) : t.ramRead a = (s.pushWord w).ramRead a :=
    State.ramRead_congr hram (by simp [hdraw]) a
  have hsp1 : t.sp + 1 = s.sp - 1 := by rw [hsp]; bv_omega
  have hsp2 : t.sp + 2 = s.sp := by rw [hsp, BitVec.sub_add_cancel]
  have hlow : t.ramRead (stackAddress (s.sp - 1)) = lowByte w := by
    rw [hread, State.ramRead_pushWord, if_pos rfl]
  have hhigh : t.ramRead (stackAddress s.sp) = highByte w := by
    rw [hread, State.ramRead_pushWord, if_neg (ramCell_stackAddress_sub_one_ne _), if_pos rfl]
  rw [State.pullWord_eq, hsp1, hsp2, hlow, hhigh, wordOf_high_low]

end

/-! ### The vector of an exception entry -/

section
variable {s s1 t : State} {vector target : Word} {status : Byte}

/-- The state before the vector read is the frame of R508 on the stack with I set. -/
theorem State.afterEntryPushes_eq_framed : s.afterEntryPushes status = framed s status := rfl

/-- An exception entry whose vector is read goes on at the vector (R313, R505, R506). -/
theorem State.enterHandler_of_done (h : (framed s status).readWord vector = .done target s1) :
    s.enterHandler vector status = .done target (s1.setPc target) := by
  rw [State.enterHandler_eq, State.afterEntryPushes_eq_framed, h, Access.bind_done]

/-- An exception entry whose vector read faults ends in the state of that fault. -/
theorem State.enterHandler_of_faulted (h : (framed s status).readWord vector = .faulted t) :
    s.enterHandler vector status = .faulted t := by
  rw [State.enterHandler_eq, State.afterEntryPushes_eq_framed, h, Access.bind_faulted]

/-- An NROM-style cartridge answers in the PRG-ROM window, and the read changes nothing (R540). -/
theorem State.memRead_nromPrg {a : Word} {r : Nrom} (hr : s.mapper = .nrom r) (ha : 0x8000 ≤ a.toNat) :
    ∃ v, r.read a = some v ∧ s.memRead a = .done v s := by
  have hread : r.read a = some (cartridgeByte r.prg (r.prgOffset a)) := if_pos ha
  have hmapper : handlerOf a = .mapper := handlerOf_mapper_iff.mpr (by omega)
  refine ⟨_, hread, State.memRead_byteAt ?_ fun _ => ⟨r, hr⟩⟩
  simpa only [State.byteAt, hmapper, hr, Mapper.answer] using hread

/-- With an NROM-style cartridge a word read in the PRG-ROM window answers, and changes nothing. -/
theorem State.readWord_nromPrg {a : Word} {r : Nrom} (hr : s.mapper = .nrom r) (ha : 0x8000 ≤ a.toNat)
    (ha1 : 0x8000 ≤ (a + 1).toNat) :
    ∃ lo hi, r.read a = some lo ∧ r.read (a + 1) = some hi ∧ s.readWord a = .done (wordOf hi lo) s := by
  obtain ⟨lo, hlo, hmemLo⟩ := State.memRead_nromPrg hr ha
  obtain ⟨hi, hhi, hmemHi⟩ := State.memRead_nromPrg hr ha1
  exact ⟨lo, hi, hlo, hhi, State.readPair_done hmemLo hmemHi⟩

end

/-! ### The instructions -/

section
variable {s s1 : State}

/-- BRK, once its vector is read (R313). -/
theorem exec_brk_of_vector {v : Word}
    (h : (framed s (s.flags.getSr ||| 0x10)).readWord 0xFFFE = .done v s1) :
    exec .brk s = .next { s1 with pc := v, cycles := s1.cycles + 7 } := by
  rw [exec, execBrk, Flags.pushedBySoftware, irqVector, State.enterHandler_of_done h, Access.andThen_done]
  rfl

/-- BRK, where its vector read faults (R170). -/
theorem exec_brk_of_fault {t : State} (h : (framed s (s.flags.getSr ||| 0x10)).readWord 0xFFFE = .faulted t) :
    exec .brk s = .next t := by
  rw [exec, execBrk, Flags.pushedBySoftware, irqVector, State.enterHandler_of_faulted h, Access.andThen_faulted]

/-- A branch, in the words of R300: its 2 base cycles, and 1 or 2 more where it is taken. -/
theorem branchThen_eq_branched (cond : Bool) (disp : Byte) (s : State) :
    branchThen cond disp 2 s = .next (branched s cond disp) := by
  rw [branchThen_eq]
  cases cond with
  | false => rfl
  | true =>
    have hextra : 2 + branchExtra s.pc (s.pc + sext16 disp) =
        3 + if highByte s.pc = highByte (s.pc + sext16 disp) then 0 else 1 := by
      by_cases hpage : highByte s.pc = highByte (s.pc + sext16 disp) <;> simp [branchExtra, pageCrossed, hpage]
    rw [if_pos rfl, branchTarget, hextra, branched, if_pos rfl, Nat.add_assoc]
    rfl

/-- JMP through a pointer, once the pointer is read (R309). -/
theorem exec_jmp_of_pointer {p w : Word} (h : s.readWordPW p = .done w s1) :
    exec (.jmp (.indirect p)) s = .next { s1 with pc := w, cycles := s1.cycles + 5 } := by
  rw [exec, execJmp, State.jumpTarget, h, Access.andThen_done]
  rfl

/-- JSR makes no read, so it always answers (R311). -/
theorem exec_jsr (w : Word) (s : State) :
    exec (.jsr w) s = .next (((s.pushWord (s.pc - 1)).setPc w).addCycles 6) := rfl

/-- RTS, once the return address is pulled (R312). -/
theorem exec_rts_of_pull {w : Word} (h : s.pullWord = .done w s1) :
    exec .rts s = .next ((s1.setPc (w + 1)).addCycles 6) := by
  rw [exec, execRts, h, Access.andThen_done]
  rfl

end

end Sys2Proof.Machine

namespace Sys2Proof.Claims

open Sys2Proof.Machine

/-- Settles O50: JSR leaves SP and the return address where RTS pulls them, and RTS adds the 1 that JSR took off. -/
theorem subroutineReturns : Obligations.SubroutineReturns := by
  intro w s
  refine ⟨_, exec_jsr w s, ?_⟩
  have hpull : (((s.pushWord (s.pc - 1)).setPc w).addCycles 6).pullWord =
      .done (s.pc - 1) ((((s.pushWord (s.pc - 1)).setPc w).addCycles 6).setSp s.sp) :=
    State.pullWord_of_pushed (by simp) rfl (by simp)
  rw [exec_rts_of_pull hpull, BitVec.sub_add_cancel, State.pushWord_frame]
  rfl

/-- Settles O12: the exception entry at the IRQ/BRK vector, which an NROM-style cartridge always answers. -/
theorem brkEffect : Obligations.BrkEffect := by
  refine ⟨fun _ _ => rfl, fun s => ⟨fun _ _ => exec_brk_of_vector, fun r hr => ?_, fun _ => exec_brk_of_fault⟩⟩
  obtain ⟨lo, hi, hlo, hhi, hread⟩ :=
    State.readWord_nromPrg (s := framed s (s.flags.getSr ||| 0x10)) (a := 0xFFFE) hr (by decide) (by decide)
  exact ⟨lo, hi, hlo, hhi, exec_brk_of_vector hread⟩

/-- Settles O14: the return from an exception, which reads three stack bytes and never faults. -/
theorem rtiEffect : Obligations.RtiEffect := by
  refine ⟨rfl, fun s => ?_⟩
  rw [exec, execRti, State.returnFromHandler_eq, Access.andThen_done]
  rfl

/-- Settles O48: each branch is `branchThen` at its own condition. -/
theorem branchResults : Obligations.BranchResults := by
  intro d s
  refine ⟨⟨rfl, rfl, rfl, rfl, rfl, rfl, rfl, rfl⟩, ?_, ?_, ?_, ?_, ?_, ?_, ?_, ?_⟩ <;>
    exact branchThen_eq_branched _ d s

/-- Settles O49: JMP to its target, JSR and its two stack bytes, RTS and the word it pulls. -/
theorem jumpResults : Obligations.JumpResults := by
  refine ⟨fun _ => ⟨rfl, rfl, rfl⟩, rfl, fun _ _ => rfl, fun _ _ _ _ => exec_jmp_of_pointer,
    fun w s => ?jsr, fun s => ?rts⟩
  case jsr =>
    rw [exec_jsr, State.pushWord_eq, State.ramWrite_eq, State.ramWrite_eq, ramCell_stackAddress, ramCell_stackAddress]
    rfl
  case rts =>
    rw [exec_rts_of_pull s.pullWord_eq]
    rfl

end Sys2Proof.Claims

/-! PROOFS. Flag instructions, transfers, increments, decrements and compares (O51 to O55). Each family is one shared shape with
its own value: `impliedThen` writes a flag or puts a byte in a register, `stepThen` rewrites a memory cell, and `readThen` sets
the flags of a compare. The rows of encodings are `encodedAs_of_forms`. -/

namespace Sys2Proof.Machine

open Sys2Proof.Claims

/-! ### Instructions with no operand -/

section
variable {base : Nat} {s : State}

/-- An instruction that only rewrites the flags. -/
theorem impliedThen_setFlags (change : Flags → Flags) :
    impliedThen base (fun u => u.setFlags (change u.flags)) s =
      .next { s with flags := change s.flags, cycles := s.cycles + base } := rfl

/-- An instruction that puts a byte of the state in A, with Z and N from it. -/
theorem impliedThen_resultInA (value : State → Byte) :
    impliedThen base (fun u => (u.setA (value u)).setZN (value u)) s = .next (spent (resultInA s (value s)) base) := rfl

/-- An instruction that puts a byte of the state in X, with Z and N from it. -/
theorem impliedThen_resultInX (value : State → Byte) :
    impliedThen base (fun u => (u.setX (value u)).setZN (value u)) s = .next (spent (resultInX s (value s)) base) := rfl

/-- An instruction that puts a byte of the state in Y, with Z and N from it. -/
theorem impliedThen_resultInY (value : State → Byte) :
    impliedThen base (fun u => (u.setY (value u)).setZN (value u)) s = .next (spent (resultInY s (value s)) base) := rfl

end

/-! ### INC and DEC, once the cell is read -/

/-- The new byte is written to the address the old one was read from, with Z and N from it (R367, R368). -/
theorem stepThen_of_memRead_done {m : Address} {r : Resolved} {v : Byte} {base : Nat} {s s1 : State} (next : Byte → Byte)
    (hr : s.resolve m = .done r s) (hread : s.memRead r.ea = .done v s1) :
    stepThen m base next s = .next (spent ((withZN s1 (next v)).memWrite r.ea (next v)) base) := by
  rw [stepThen, State.modifyAddress, hr, Access.bind_done, hread, Access.bind_done, Access.andThen_done]
  rfl

/-! ### A compare -/

/-- Z of the difference is equality of the register and the operand (R372). -/
theorem State.setFlags_afterCompare (s : State) (r m : Byte) : s.setFlags (s.flags.afterCompare r m) = compared s r m := by
  have hz : (r - m == 0) = (r == m) := by
    rw [Bool.eq_iff_iff, beq_iff_eq, beq_iff_eq]
    exact sub_eq_zero
  rw [compared, ← hz]
  rfl

/-- A compare of a register, once its operand is loaded. -/
theorem readThen_compared {src : Source} {base : Nat} {penalty : Bool → Nat} {s s1 : State} {l : Loaded}
    (register : State → Byte) (h : s.load src = .done l s1) :
    readThen src base penalty (fun m u => u.setFlags (u.flags.afterCompare (register u) m)) s =
      .next (spent (compared s1 (register s1) l.value) (base + penalty l.crossed)) := by
  rw [readThen_of_load_done h, State.setFlags_afterCompare]
  rfl

end Sys2Proof.Machine

namespace Sys2Proof.Claims

open Sys2Proof.Machine

/-- Settles O51: each of the seven is `impliedThen_setFlags` at its own flag. -/
theorem flagInstructionResults : Obligations.FlagInstructionResults := by
  refine ⟨⟨rfl, rfl, rfl, rfl, rfl, rfl, rfl⟩, fun s => ⟨?clc, ?sec, ?cli, ?sei, ?cld, ?sed, ?clv⟩⟩
  case clc => exact impliedThen_setFlags fun f => { f with c := false }
  case sec => exact impliedThen_setFlags fun f => { f with c := true }
  case cli => exact impliedThen_setFlags fun f => { f with i := false }
  case sei => exact impliedThen_setFlags fun f => { f with i := true }
  case cld => exact impliedThen_setFlags fun f => { f with d := false }
  case sed => exact impliedThen_setFlags fun f => { f with d := true }
  case clv => exact impliedThen_setFlags fun f => { f with v := false }

/-- Settles O52: each transfer puts its source register in its target; TXS alone writes no flag. -/
theorem transferResults : Obligations.TransferResults := by
  refine ⟨⟨rfl, rfl, rfl, rfl, rfl, rfl⟩, fun s => ⟨?tax, ?tay, ?txa, ?tya, ?tsx, ?txs⟩⟩
  case tax => exact impliedThen_resultInX State.a
  case tay => exact impliedThen_resultInY State.a
  case txa => exact impliedThen_resultInA State.x
  case tya => exact impliedThen_resultInA State.y
  case tsx => exact impliedThen_resultInX State.sp
  case txs => exact impliedThen_eq _ _ s

/-- Settles O53: each puts the register's byte, one more or one less, back in the register. -/
theorem registerStepResults : Obligations.RegisterStepResults := by
  refine ⟨⟨rfl, rfl, rfl, rfl⟩, fun s => ⟨?inx, ?iny, ?dex, ?dey⟩⟩
  case inx => exact impliedThen_resultInX fun u => u.x + 1
  case iny => exact impliedThen_resultInY fun u => u.y + 1
  case dex => exact impliedThen_resultInX fun u => u.x - 1
  case dey => exact impliedThen_resultInY fun u => u.y - 1

/-- Settles O54: the rows of R161, and `stepThen_of_memRead_done` at the byte one more and one less. -/
theorem memoryStepResults : Obligations.MemoryStepResults := by
  refine ⟨?inc, ?dec, fun m s s1 r v hr hread => ⟨?_, ?_⟩⟩
  case inc | dec => exact encodedAs_of_forms (fun _ => rfl) (fun _ => rfl) (fun _ => rfl) (fun _ => rfl) (by decide)
  · exact stepThen_of_memRead_done (· + 1) hr hread
  · exact stepThen_of_memRead_done (· - 1) hr hread

/-- Settles O55: the rows of R161, and `readThen_compared` at each of the three registers. -/
theorem compareResults : Obligations.CompareResults := by
  refine ⟨?cmp, ?cpx, ?cpy, fun src s s1 l hload => ⟨?_, ?_, ?_⟩⟩
  case cmp | cpx | cpy =>
    exact encodedAs_of_forms (fun _ => rfl) (fun _ => rfl) (fun _ => rfl) (fun _ => rfl) (by decide)
  · exact readThen_compared State.a hload
  · exact readThen_compared State.x hload
  · exact readThen_compared State.y hload

end Sys2Proof.Claims

/-! PROOFS. Loads, stores and the stack instructions (O56 to O58). A load is `readThen` once its operand is there; a store is
`storeThen` at the address its mode resolves to, which always answers; a push and a pull are of page 1, which is RAM, so none
of the four stack instructions can fault. The rows of encodings are `encodedAs_of_forms`. -/

namespace Sys2Proof.Machine

open Sys2Proof.Claims

/-! ### A store, at the address its mode resolves to -/

/-- A store writes one byte at that address and reads nothing there (R403 to R405). -/
theorem storeThen_of_resolve {m : Address} {r : Resolved} {base : Nat} {v : Byte} {s : State}
    (hr : s.resolve m = .done r s) : storeThen m base v s = .next (spent (s.memWrite r.ea v) base) := by
  obtain ⟨r', hr', hstore⟩ := storeThen_eq (m := m) (base := base) (v := v) (s := s)
  cases hr.symm.trans hr'
  exact hstore

/-! ### The stack instructions -/

/-- An instruction that pushes a byte of the state: one RAM cell of page 1, SP and the cycles change (R95). -/
theorem impliedThen_push {base : Nat} {s : State} (value : State → Byte) :
    impliedThen base (fun u => u.push (value u)) s = .next { s with
      ram := s.ram.write none (0x100 + s.sp.toNat) (value s), sp := s.sp - 1, cycles := s.cycles + base } := by
  rw [impliedThen_eq, State.push_eq, State.ramWrite_eq, ramCell_stackAddress]
  rfl

/-- What follows a pull runs with the stack byte above SP, and with SP on that byte (R96). -/
theorem State.pull_andThen (s : State) (k : Byte → State → Result) :
    s.pull.andThen k = k (s.ramRead (stackAddress (s.sp + 1))) (s.setSp (s.sp + 1)) := by
  rw [State.pull_eq, Access.andThen_done]

end Sys2Proof.Machine

namespace Sys2Proof.Claims

open Sys2Proof.Machine

/-- Settles O56: the rows of R161, and the operand put in each of the three registers. -/
theorem loadResults : Obligations.LoadResults := by
  refine ⟨?lda, ?ldx, ?ldy, fun src s s1 l hload => ⟨?_, ?_, ?_⟩⟩
  case lda | ldx | ldy =>
    exact encodedAs_of_forms (fun _ => rfl) (fun _ => rfl) (fun _ => rfl) (fun _ => rfl) (by decide)
  · rw [exec, execLda]
    exact readThen_of_load_done hload
  · rw [exec, execLdx]
    exact readThen_of_load_done hload
  · rw [exec, execLdy]
    exact readThen_of_load_done hload

/-- Settles O57: the rows of R161, and resolving a memory operand always answers without changing the state. -/
theorem storeResults : Obligations.StoreResults := by
  refine ⟨?sta, ?stx, ?sty, fun m s => ?_⟩
  case sta | stx | sty =>
    exact encodedAs_of_forms (fun _ => rfl) (fun _ => rfl) (fun _ => rfl) (fun _ => rfl) (by decide)
  obtain ⟨r, hr⟩ := s.resolve_done m
  exact ⟨r, hr, storeThen_of_resolve hr, storeThen_of_resolve hr, storeThen_of_resolve hr⟩

/-- Settles O58: a push of A or of the status byte, and a pull to A or to the flags. -/
theorem stackInstructionResults : Obligations.StackInstructionResults := by
  refine ⟨⟨rfl, rfl, rfl, rfl⟩, fun s => ⟨?pha, ?php, ?pla, ?plp⟩⟩
  case pha => exact impliedThen_push State.a
  case php => exact impliedThen_push fun u => u.flags.pushedBySoftware
  case pla => exact s.pull_andThen _
  case plp => exact s.pull_andThen _

end Sys2Proof.Claims

/-! PROOFS. NOP and the undocumented opcodes (O59): both are `impliedThen`, with no effect and with the model's own mark. -/

namespace Sys2Proof.Claims

open Sys2Proof.Machine

/-- Settles O59: one implied row each in R161 and R162, of base 2; NOP has no effect and UNDOC sets the mark. -/
theorem noOperationResults : Obligations.NoOperationResults := by
  refine ⟨rfl, fun b s => ⟨?nop, ?undoc⟩⟩
  case nop => exact impliedThen_eq _ id s
  case undoc => exact impliedThen_eq _ State.markUndoc s

end Sys2Proof.Claims

/-! PROOFS. The exceptions (O9 to O11, O13, O15) and the NROM-style mapper (O36). An NMI, an IRQ and BRK enter their handler
alike: `State.enterHandler_andThen_of_vector` and its neighbours say what the vector read decides, and `Entered` says what
each of the three leaves where it ends in a running state; the frame on the stack and the return by RTI follow from it once
for all three. A fetch that faults ends the step in the fault of the byte it read. -/

namespace Sys2Proof.Machine

open Sys2Proof.Claims

/-! ### The vector read of an exception entry -/

section
variable {s s1 t : State} {vector v : Word} {status : Byte} {k : Word → State → Result}

/-- An exception entry whose vector is read goes on at the vector. -/
theorem State.enterHandler_andThen_of_vector (h : (framed s status).readWord vector = .done v s1) :
    (s.enterHandler vector status).andThen k = k v (s1.setPc v) := by
  rw [State.enterHandler_of_done h, Access.andThen_done]

/-- An exception entry whose vector read faults ends in the state of that fault. -/
theorem State.enterHandler_andThen_of_fault (h : (framed s status).readWord vector = .faulted t) :
    (s.enterHandler vector status).andThen k = .next t := by
  rw [State.enterHandler_of_faulted h, Access.andThen_faulted]

/-- With an NROM-style cartridge the vector read answers, and changes nothing (R540). -/
theorem State.enterHandler_andThen_of_nrom {r : Nrom} (hr : s.mapper = .nrom r) (hlo : 0x8000 ≤ vector.toNat)
    (hhi : 0x8000 ≤ (vector + 1).toNat) :
    ∃ lo hi, r.read vector = some lo ∧ r.read (vector + 1) = some hi ∧
      (s.enterHandler vector status).andThen k = k (wordOf hi lo) ((framed s status).setPc (wordOf hi lo)) := by
  obtain ⟨lo, hi, hreadLo, hreadHi, hread⟩ := State.readWord_nromPrg (s := framed s status) hr hlo hhi
  exact ⟨lo, hi, hreadLo, hreadHi, State.enterHandler_andThen_of_vector hread⟩

end

/-- With no IRQ pending, or with I set, a running machine without an NMI has nothing to enter (R503). -/
theorem State.quiet_of_no_interrupt {s : State} (hrunning : s.running = true) (hnmi : s.nmiPending = false)
    (hirq : s.irqPending = false ∨ s.flags.i = true) : s.quiet = true := by
  rcases hirq with hirq | hmasked
  · simp [State.quiet, hrunning, hnmi, hirq]
  · simp [State.quiet, hrunning, hnmi, hmasked]

/-! ### The frame on the stack -/

/-- The status byte of an NMI or IRQ entry packs the flags with B clear (R505, R506). -/
theorem Flags.pushedByInterrupt_eq (f : Flags) : f.pushedByInterrupt = { f with b := false }.getSr := by
  obtain ⟨c, z, i, d, b, v, n⟩ := f
  revert c z i d b v n
  decide

/-- The status byte of BRK packs the flags with B set (R313). -/
theorem Flags.pushedBySoftware_eq (f : Flags) : f.pushedBySoftware = { f with b := true }.getSr := by
  obtain ⟨c, z, i, d, b, v, n⟩ := f
  revert c z i d b v n
  decide

/-- Two stack bytes are one RAM cell only at one SP. -/
theorem ramCell_stackAddress_inj {p q : Byte} : ramCell (stackAddress p) = ramCell (stackAddress q) ↔ p = q := by
  rw [ramCell_stackAddress, ramCell_stackAddress, Nat.add_right_inj, BitVec.toNat_inj]

/-- A stack byte after the three pushes of an exception entry (R508). -/
theorem State.ramRead_framed (s : State) (status p : Byte) :
    (framed s status).ramRead (stackAddress p) =
      if s.sp - 2 = p then status
      else if s.sp - 1 = p then lowByte s.pc
      else if s.sp = p then highByte s.pc
      else s.ramRead (stackAddress p) := by
  simp only [← ramCell_stackAddress_inj (q := p), ← State.ramRead_ramWrite]
  rfl

/-- What an exception entry from s leaves in t, once its vector is read: the frame with the given bit 4 of the status, and I
set. PC, the latches, the clock and what the ports were asked are free. -/
def Entered (s : State) (bit4 : Bool) (t : State) : Prop :=
  t = { framed s { s.flags with b := bit4 }.getSr with
    pc := t.pc, nmiPending := t.nmiPending, irqPending := t.irqPending, cycles := t.cycles
    mapper := t.mapper, ioLog := t.ioLog, draws := t.draws }

section
variable {s t : State} {bit4 : Bool}

/-- An exception entry that ends in a running state, whatever it does to the latches and the clock afterwards. -/
theorem State.enterHandler_entered {vector : Word} {k : State → State}
    (h : (s.enterHandler vector { s.flags with b := bit4 }.getSr).andThen (fun _ u => .next (k u)) = .next t)
    (ht : t.running = true)
    (hk : ∀ u, k u = { u with
      nmiPending := (k u).nmiPending, irqPending := (k u).irqPending, cycles := (k u).cycles }) :
    Entered s bit4 t := by
  obtain ⟨target, u, hs, ⟨⟩⟩ := State.enterHandler_andThen_running h ht
  obtain ⟨m, l, d, rfl⟩ := hs.exists_ports
  rw [hk]
  rfl

/-- The entry of an NMI, with bit 4 of the status clear (R505). -/
theorem entered_of_nmi (hrunning : s.running = true) (hnmi : s.nmiPending = true) (h : step s = .next t)
    (ht : t.running = true) : Entered s false t := by
  rw [step_of_nmi hrunning hnmi, State.nmiEntry, Flags.pushedByInterrupt_eq] at h
  exact State.enterHandler_entered h ht fun _ => rfl

/-- The entry of an IRQ, with bit 4 of the status clear (R506). -/
theorem entered_of_irq (hrunning : s.running = true) (hnmi : s.nmiPending = false) (hirq : s.irqPending = true)
    (hi : s.flags.i = false) (h : step s = .next t) (ht : t.running = true) : Entered s false t := by
  rw [step_of_irq hrunning hnmi hirq hi, State.irqEntry, Flags.pushedByInterrupt_eq] at h
  exact State.enterHandler_entered h ht fun _ => rfl

/-- The entry of BRK, with bit 4 of the status set (R313). -/
theorem entered_of_brk (h : exec .brk s = .next t) (ht : t.running = true) : Entered s true t := by
  rw [exec, execBrk, Flags.pushedBySoftware_eq] at h
  exact State.enterHandler_entered h ht fun _ => rfl

theorem Entered.sp (h : Entered s bit4 t) : t.sp = s.sp - 3 := by rw [h]; rfl
theorem Entered.a (h : Entered s bit4 t) : t.a = s.a := by rw [h]; rfl
theorem Entered.x (h : Entered s bit4 t) : t.x = s.x := by rw [h]; rfl
theorem Entered.y (h : Entered s bit4 t) : t.y = s.y := by rw [h]; rfl

theorem Entered.ramRead (h : Entered s bit4 t) (a : Word) :
    t.ramRead a = (framed s { s.flags with b := bit4 }.getSr).ramRead a := by
  rw [h]; rfl

/-- The high byte of the return PC is at the old SP. -/
theorem Entered.ramRead_high (h : Entered s bit4 t) : t.ramRead (stackAddress s.sp) = highByte s.pc := by
  have hstatus : s.sp - 2 ≠ s.sp := by bv_omega
  have hlow : s.sp - 1 ≠ s.sp := by bv_omega
  rw [h.ramRead, State.ramRead_framed, if_neg hstatus, if_neg hlow, if_pos rfl]

/-- The low byte of the return PC is next below. -/
theorem Entered.ramRead_low (h : Entered s bit4 t) : t.ramRead (stackAddress (s.sp - 1)) = lowByte s.pc := by
  have hstatus : s.sp - 2 ≠ s.sp - 1 := by bv_omega
  rw [h.ramRead, State.ramRead_framed, if_neg hstatus, if_pos rfl]

/-- The status byte is on the top of the stack. -/
theorem Entered.ramRead_status (h : Entered s bit4 t) :
    t.ramRead (stackAddress (s.sp - 2)) = { s.flags with b := bit4 }.getSr := by
  rw [h.ramRead, State.ramRead_framed, if_pos rfl]

/-- The frame of R508: the return PC and the status, in which bit 4 is the given one and bit 5 is 1. -/
theorem Entered.frame (h : Entered s bit4 t) :
    t.sp = s.sp - 3 ∧ t.ramRead (stackAddress s.sp) = highByte s.pc ∧
      t.ramRead (stackAddress (s.sp - 1)) = lowByte s.pc ∧
      (t.ramRead (stackAddress (s.sp - 2))).getLsbD 4 = bit4 ∧
      (t.ramRead (stackAddress (s.sp - 2))).getLsbD 5 = true ∧
      Flags.ofSr (t.ramRead (stackAddress (s.sp - 2))) = { s.flags with b := bit4 } := by
  obtain ⟨-, -, -, -, hb, hfive, -, -, hflags⟩ := statusByteRoundTrip.1 { s.flags with b := bit4 }
  rw [h.ramRead_status]
  exact ⟨h.sp, h.ramRead_high, h.ramRead_low, hb, hfive, hflags⟩

/-- A return from the handler right after its entry pulls what the entry pushed (R509). -/
theorem Entered.returnFromHandler (h : Entered s bit4 t) :
    t.returnFromHandler = .done s.pc (((t.setFlags { s.flags with b := bit4 }).setSp s.sp).setPc s.pc) := by
  obtain ⟨hsp, hhigh, hlow, -, -, hflags⟩ := h.frame
  have h1 : t.sp + 1 = s.sp - 2 := by rw [hsp]; bv_omega
  have h2 : t.sp + 2 = s.sp - 1 := by rw [hsp]; bv_omega
  have h3 : t.sp + 3 = s.sp := by rw [hsp, BitVec.sub_add_cancel]
  simp only [State.returnFromHandler_eq, h1, h2, h3, hhigh, hlow, hflags, wordOf_high_low]

/-- RTI at the start of a handler resumes what the entry interrupted (R509). -/
theorem Entered.resumes (h : Entered s bit4 t) (ht : t.running = true) :
    ∃ u, exec .rti t = .next u ∧ u.pc = s.pc ∧ u.sp = s.sp ∧ u.flags = { s.flags with b := bit4 } ∧
      u.a = s.a ∧ u.x = s.x ∧ u.y = s.y ∧ u.fault = none := by
  rw [exec, execRti, h.returnFromHandler, Access.andThen_done]
  exact ⟨_, rfl, rfl, rfl, rfl, h.a, h.x, h.y, Option.isNone_iff_eq_none.mp ht⟩

end

/-! ### The unmapped-address fault -/

section
variable {s s1 s2 t : State} {opcode op1 : Byte}

theorem State.fault_of_quiet (h : s.quiet = true) : s.fault = none := by
  simp only [State.quiet, State.running, Bool.and_eq_true, Option.isNone_iff_eq_none] at h
  obtain ⟨⟨hnone, -⟩, -⟩ := h
  exact hnone

/-- A faulted machine does not change (R501). -/
theorem step_of_fault {a : Word} (h : s.fault = some a) : step s = .next s := by
  rw [step, h]

theorem State.fetch_of_opcode_faulted (h : s.memRead s.pc = .faulted t) : s.fetch = .faulted t := by
  rw [State.fetch, h, Access.bind_faulted]

theorem State.fetch_of_operand1_faulted (h : s.memRead s.pc = .done opcode s1)
    (h1 : s1.memRead (s.pc + 1) = .faulted t) (hcount : 1 ≤ (Instr.ofBytes opcode 0 0).operandBytes) :
    s.fetch = .faulted t := by
  rw [State.fetch, h, Access.bind_done, State.fetchOperands, h1]
  split
  next hzero => omega
  next => rfl
  next => rfl

theorem State.fetch_of_operand2_faulted (h : s.memRead s.pc = .done opcode s1)
    (h1 : s1.memRead (s.pc + 1) = .done op1 s2) (h2 : s2.memRead (s.pc + 2) = .faulted t)
    (hcount : (Instr.ofBytes opcode 0 0).operandBytes = 2) : s.fetch = .faulted t := by
  simp only [State.fetch, State.fetchOperands, h, h1, h2, hcount, Access.bind_done, Access.bind_faulted]

/-- A fetch that ends in the fault of a read ends the step there, with the address marked, and no later step leaves it. -/
theorem step_of_fetch_faulted {a : Word} (hquiet : s.quiet = true) (hfetch : s.fetch = .faulted t)
    (hs : SameCore s s1) (hread : s1.memRead a = .faulted t) :
    step s = .next t ∧ t.fault = some a ∧ step t = .next t := by
  have hmark : t.fault = some a := by
    rw [State.fault_of_memRead_faulted hread, hs.fault, State.fault_of_quiet hquiet, Option.getD_none]
  refine ⟨?_, hmark, step_of_fault hmark⟩
  rw [step_of_quiet hquiet, hfetch, Access.andThen_faulted]

/-- Reset does not clear the fault mark, whether or not its own vector read faults (R52, R602). -/
theorem State.hostReset_fault {a : Word} (h : s.fault = some a) (c : IoAddress) : (s.hostReset c).fault = some a := by
  rw [State.hostReset]
  have hpre : (((s.setSp (s.sp - 3)).setInterruptDisable true).ioWrite c.value 0x00).fault = some a := h
  generalize ((s.setSp (s.sp - 3)).setInterruptDisable true).ioWrite c.value 0x00 = u at hpre ⊢
  have hvector := u.readWord_onlyReads resetVector
  cases hread : u.readWord resetVector with
  | done target w => exact (hvector.done hread).fault.trans hpre
  | faulted w =>
    obtain ⟨w', b, hs, rfl⟩ := hvector.faulted hread
    simp [hs.fault, hpre]

theorem State.powerUp_fault (s : State) (p : PowerUpInputs) : (s.powerUp p).fault = none := by
  rw [State.powerUp, State.clearIo_eq]

end

/-! ### The NROM-style mapper -/

section
variable {r : Nrom} {a b : Word} {v : Byte}

/-- A cartridge byte that is listed. -/
theorem cartridgeByte_of_lookup {m : Memory} {k : Nat} (h : m.lookup k = some v) : cartridgeByte m k = v := by
  rw [cartridgeByte, h, Option.getD_some]

/-- A cartridge byte that is not listed reads 0x00 (log entry 7). -/
theorem cartridgeByte_of_unlisted {m : Memory} {k : Nat} (h : m.lookup k = none) : cartridgeByte m k = 0x00 := by
  rw [cartridgeByte, h]
  rfl

theorem Nrom.ramSelected_iff :
    r.ramSelected a = true ↔ (0x6000 ≤ a.toNat ∧ a.toNat ≤ 0x7FFF) ∧ r.hasPrgRam = true := by
  rw [Nrom.ramSelected, Bool.and_eq_true, decide_eq_true_iff]

theorem Nrom.read_prg (h : 0x8000 ≤ a.toNat) : r.read a = some (cartridgeByte r.prg (r.prgOffset a)) := if_pos h

theorem Nrom.read_prgRam (h : r.ramSelected a = true) :
    r.read a = some (cartridgeByte r.prgRam (a.toNat - 0x6000)) := by
  have hwindow := Nrom.ramSelected_iff.mp h
  have hbelow : ¬ 0x8000 ≤ a.toNat := by omega
  rw [Nrom.read, if_neg hbelow, if_pos h]

theorem Nrom.read_unmapped (hbelow : a.toNat < 0x8000) (h : r.ramSelected a = false) : r.read a = none := by
  rw [Nrom.read, if_neg (Nat.not_le.mpr hbelow), h]
  rfl

theorem Nrom.write_prgRam (h : r.ramSelected a = true) :
    r.write a v = { r with prgRam := r.prgRam.write cartridgeBlank (a.toNat - 0x6000) v } := if_pos h

theorem Nrom.write_unmapped (h : r.ramSelected a = false) : r.write a v = r := by
  rw [Nrom.write, h]
  rfl

/-- A write changes nothing of the cartridge but the bytes of PRG-RAM (R540). -/
theorem Nrom.write_frame (r : Nrom) (a : Word) (v : Byte) : r.write a v = { r with prgRam := (r.write a v).prgRam } := by
  cases h : r.ramSelected a with
  | true => rw [Nrom.write_prgRam h]
  | false => rw [Nrom.write_unmapped h]

/-- In a 16 KB image the two halves of the window are the same bytes (R540). -/
theorem Nrom.prgOffset_mirror (hsize : r.prgSize = .kb16) (hlo : 0x8000 ≤ a.toNat) (hhi : a.toNat < 0xC000) :
    r.prgOffset (a + 0x4000) = r.prgOffset a := by
  have hupper : (a + 0x4000).toNat - 0x8000 = a.toNat - 0x8000 + 0x4000 := by bv_omega
  rw [Nrom.prgOffset, Nrom.prgOffset, hsize, hupper]
  exact Nat.add_mod_right _ _

/-- PRG-RAM holds what was written last (R540). -/
theorem Nrom.read_write_self (h : r.ramSelected a = true) (hwf : (Mapper.nrom r).wf = true) :
    (r.write a v).read a = some v := by
  obtain ⟨-, hpresent⟩ := Nrom.ramSelected_iff.mp h
  simp only [Mapper.wf, hpresent, if_true, Bool.and_eq_true] at hwf
  have hselected : (r.write a v).ramSelected a = true := by rw [Nrom.write_frame]; exact h
  have hblank : cartridgeBlank = some v → cartridgeBlank.getD 0 = v := fun hv => by rw [hv, Option.getD_some]
  rw [Nrom.read_prgRam hselected, Nrom.write_prgRam h, cartridgeByte, Memory.getD_lookup_write_self hwf.2 hblank]

end

end Sys2Proof.Machine

namespace Sys2Proof.Claims

open Sys2Proof.Machine

/-- Settles O9: each byte of a fetch can end the step in its own fault, and of the host's operations only PowerUp writes the
fault mark. -/
theorem unmappedFaultIsFatal : Obligations.UnmappedFaultIsFatal := by
  refine ⟨fun s a ha hv hnone => ?read, fun s hquiet hpc hv => ?opcode, fun s s1 opcode hquiet h => ?operands,
    fun s a hfault => ?mark⟩
  case read =>
    have hread := State.memRead_unmapped (handlerOf_mapper_iff.mpr ha) hv
    exact ⟨_, hread, by rw [State.fault_of_memRead_faulted hread, hnone, Option.getD_none]⟩
  case opcode =>
    have hread := State.memRead_unmapped (handlerOf_mapper_iff.mpr hpc) hv
    exact ⟨_, step_of_fetch_faulted hquiet (State.fetch_of_opcode_faulted hread) (SameCore.refl s) hread⟩
  case operands =>
    have hs : SameCore s s1 := (s.memRead_onlyReads s.pc).done h
    refine ⟨fun t h1 => ⟨fun hcount => ?_, fun hcount => ?_⟩, fun op1 s2 t h1 h2 hcount => ?_⟩
    · rw [step_of_quiet hquiet, State.fetch_noOperand h hcount]
      rfl
    · exact step_of_fetch_faulted hquiet (State.fetch_of_operand1_faulted h h1 hcount) hs h1
    · have hs2 : SameCore s s2 := hs.trans ((s1.memRead_onlyReads _).done h1)
      exact step_of_fetch_faulted hquiet (State.fetch_of_operand2_faulted h h1 h2 hcount) hs2 h2
  case mark =>
    exact ⟨step_of_fault hfault, State.hostReset_fault hfault, hfault, hfault,
      by rw [State.clearRam, State.setRam_fault, hfault], fun _ => hfault, fun _ _ => by simp [State.writeWord, hfault],
      s.powerUp_fault⟩

/-- Settles O13: the frame that each of the three entries leaves. -/
theorem exceptionFrameOnStack : Obligations.ExceptionFrameOnStack :=
  ⟨fun _ _ hrunning hnmi h ht => (entered_of_nmi hrunning hnmi h ht).frame,
    fun _ _ hrunning hnmi hirq hi h ht => (entered_of_irq hrunning hnmi hirq hi h ht).frame,
    fun _ _ _ h ht => (entered_of_brk h ht).frame⟩

/-- Settles O15: RTI pulls the frame that each of the three entries leaves. -/
theorem rtiResumesInterruptedProgram : Obligations.RtiResumesInterruptedProgram :=
  ⟨fun _ _ hrunning hnmi h ht => (entered_of_nmi hrunning hnmi h ht).resumes ht,
    fun _ _ hrunning hnmi hirq hi h ht => (entered_of_irq hrunning hnmi hirq hi h ht).resumes ht,
    fun _ _ _ h ht => (entered_of_brk h ht).resumes ht⟩

/-- Settles O10: the exception entry at the NMI vector, by what its vector read does. -/
theorem nmiEntryEffect : Obligations.NmiEntryEffect := by
  intro s hrunning hnmi
  rw [step_of_nmi hrunning hnmi]
  exact ⟨fun _ _ => State.enterHandler_andThen_of_vector,
    fun _ hr => State.enterHandler_andThen_of_nrom hr (by decide) (by decide),
    fun _ => State.enterHandler_andThen_of_fault⟩

/-- Settles O11: the exception entry at the IRQ/BRK vector, by what its vector read does; else the machine is quiet. -/
theorem irqEntryEffect : Obligations.IrqEntryEffect := by
  intro s hrunning hnmi
  refine ⟨fun hirq hi => ?_, fun h => step_of_quiet (State.quiet_of_no_interrupt hrunning hnmi h)⟩
  rw [step_of_irq hrunning hnmi hirq hi]
  exact ⟨fun _ _ => State.enterHandler_andThen_of_vector,
    fun _ hr => State.enterHandler_andThen_of_nrom hr (by decide) (by decide),
    fun _ => State.enterHandler_andThen_of_fault⟩

/-- Settles O36: a read and a write by window, and the laws of a memory read after a write. -/
theorem nromMapperContract : Obligations.NromMapperContract := by
  intro r a b v prgBytes
  have hbytes : prgBytes = r.prgSize.bytes := rfl
  refine ⟨fun ha => ?prg, ?frame, fun hlo hhi hpresent => ?prgRam, fun hsize hlo hhi => ?mirror,
    fun hlo hhi hpresent hwf => ?written, fun _ hbelow hnone => ?unmapped⟩
  case prg =>
    rw [hbytes, Nrom.read_prg ha, Nrom.read_prg ha, Nrom.write_frame]
    exact ⟨fun w hw => congrArg some (cartridgeByte_of_lookup hw),
      fun hw => congrArg some (cartridgeByte_of_unlisted hw), rfl⟩
  case frame =>
    rw [Nrom.write_frame]
    exact ⟨rfl, rfl, rfl⟩
  case prgRam =>
    rw [Nrom.read_prgRam (Nrom.ramSelected_iff.mpr ⟨⟨hlo, hhi⟩, hpresent⟩)]
    exact ⟨fun w hw => congrArg some (cartridgeByte_of_lookup hw),
      fun hw => congrArg some (cartridgeByte_of_unlisted hw)⟩
  case mirror =>
    have hupper : 0x8000 ≤ (a + 0x4000).toNat := by bv_omega
    rw [Nrom.read_prg hupper, Nrom.read_prg hlo, Nrom.prgOffset_mirror hsize hlo hhi]
  case written =>
    exact ⟨Nrom.read_write_self (Nrom.ramSelected_iff.mpr ⟨⟨hlo, hhi⟩, hpresent⟩) hwf,
      fun hne => Nrom.read_write_of_ne hne r v⟩
  case unmapped =>
    have hselected : r.ramSelected a = false := by
      rw [Bool.eq_false_iff, ne_eq, Nrom.ramSelected_iff]
      rintro ⟨⟨hlo, -⟩, hpresent⟩
      rcases hnone with hwindow | habsent
      · omega
      · simp [hpresent] at habsent
    exact ⟨Nrom.read_unmapped hbelow hselected, Nrom.write_unmapped hselected⟩

end Sys2Proof.Claims

/-! PROOFS. The base cycle counts and the clock over a step (O6, O22). Everything said of a base count is said once of every
entry of the table R161 and carried to the instruction by `baseCycles_of_forms`. `Clocked` bounds how far the clock moves;
`exec_clocked` gives an instruction its base count and the extra cycles its class can take, and a step is a fetch, which takes
no cycles of its own, and an instruction, or an entry of 7. -/

namespace Sys2Proof

open Sys2Proof.Claims

/-! ### The base cycle count of an instruction -/

/-- The table R161 has one entry for each mode that the opcode map gives the operation, in the same order. -/
theorem Instr.forms_map_mode (i : Instr) : i.forms.map Form.mode = i.modes := by
  cases i <;> rfl

/-- The base count of a well-formed instruction is that of the entry for its mode. -/
theorem Instr.baseCycles_of_forms {i : Instr} {P : Nat → Prop} (h : i.wellFormed = true)
    (hforms : ∀ f ∈ i.forms, f.mode = i.mode → P f.base) : P i.baseCycles := by
  simp only [Instr.wellFormed, Instr.modeAllowed, Bool.and_eq_true, List.contains_iff_mem] at h
  obtain ⟨hmode, -⟩ := h
  rw [← Instr.forms_map_mode, List.mem_map] at hmode
  obtain ⟨f, hf, hfmode⟩ := hmode
  unfold Instr.baseCycles
  cases hform : i.form? with
  | none => simpa [hfmode] using List.find?_eq_none.mp hform f hf
  | some g => exact hforms g (List.mem_of_find?_eq_some hform) (by simpa using List.find?_some hform)

/-- Each entry of R161 for the mode of an instruction has the base count that R630 gives its class in that mode. -/
theorem Instr.base_of_mem_forms {i : Instr} {f : Form} (hf : f ∈ i.forms) (hmode : f.mode = i.mode) :
    f.base = cyclesByClass i := by
  cases i with
  | adc src | sbc src | and src | ora src | eor src | cmp src | cpx src | cpy src | lda src | ldx src | ldy src | bit m =>
    have hclass : f.base = readCycles f.mode := by
      revert f; simp [Instr.forms, accumulatorForms, readCycles]
    exact hclass.trans (congrArg readCycles hmode)
  | sta m | stx m | sty m =>
    have hclass : f.base = storeCycles f.mode := by
      revert f; simp [Instr.forms, storeCycles]
    exact hclass.trans (congrArg storeCycles hmode)
  | asl p | lsr p | rol p | ror p | inc m | dec m =>
    have hclass : f.base = modifyCycles f.mode := by
      revert f; simp [Instr.forms, shiftForms, modifyCycles]
    exact hclass.trans (congrArg modifyCycles hmode)
  | jmp t =>
    cases t with
    | absolute w | indirect w => revert f; simp [Instr.forms, Instr.mode, JumpTarget.mode, cyclesByClass]
  | _ =>
    cases List.mem_singleton.mp hf
    rfl

/-- The most cycles that the instruction can take beyond its base count: the page-cross penalty of the nine instructions of
R155, and 2 for a branch taken across a page (R300). -/
def Instr.maxExtra : Instr → Nat
  | .adc _ | .sbc _ | .and _ | .ora _ | .eor _ | .cmp _ | .lda _ | .ldx _ | .ldy _ => 1
  | .bcc _ | .bcs _ | .beq _ | .bne _ | .bmi _ | .bpl _ | .bvc _ | .bvs _ => 2
  | _ => 0

/-- No instruction of the opcode map takes fewer than 2 cycles or more than 7. -/
theorem Instr.baseCycles_bounds {i : Instr} (h : i.wellFormed = true) :
    2 ≤ i.baseCycles ∧ i.baseCycles + i.maxExtra ≤ 7 := by
  have hforms : ∀ f ∈ i.forms, 2 ≤ f.base ∧ f.base + i.maxExtra ≤ 7 := by
    cases i <;> simp [Instr.forms, accumulatorForms, shiftForms, Instr.maxExtra]
  exact Instr.baseCycles_of_forms (P := fun n => 2 ≤ n ∧ n + i.maxExtra ≤ 7) h fun f hf _ => hforms f hf

end Sys2Proof

namespace Sys2Proof.Machine

open Sys2Proof.Claims

/-! ### The clock over the shared shapes of a meaning -/

/-- From s to t the clock does not go back, and where t is running it moves by `base` cycles and at most `extra` more. -/
def Clocked (base extra : Nat) (s t : State) : Prop :=
  s.cycles ≤ t.cycles ∧ (t.running = true → s.cycles + base ≤ t.cycles ∧ t.cycles ≤ s.cycles + (base + extra))

/-- If an instruction or an entry answers r from s, the clock moves so. -/
def ClockedNext (base extra : Nat) (s : State) (r : Result) : Prop := ∀ t, r = .next t → Clocked base extra s t

section
variable {base extra : Nat} {s t u : State}

/-- What takes at least 2 and at most 7 cycles is within the bounds of a step (R161). -/
theorem Clocked.bounds (h : Clocked base extra s t) (hlow : 2 ≤ base) (hhigh : base + extra ≤ 7) :
    s.cycles ≤ t.cycles ∧
      (s.running = true → t.running = true → s.cycles + 2 ≤ t.cycles ∧ t.cycles ≤ s.cycles + 7) := by
  obtain ⟨hforward, htaken⟩ := h
  refine ⟨hforward, fun _ ht => ?_⟩
  have := htaken ht
  omega

/-- A fault leaves the clock not less than it was (R621). -/
theorem clocked_raiseFault (hs : SameCore s u) (a : Word) : Clocked base extra s (u.raiseFault a) := by
  refine ⟨?_, fun ht => by simp at ht⟩
  rw [State.raiseFault_cycles, hs.cycles]
  exact Nat.le_add_right _ _

/-- The usual end of a meaning: updates that leave the clock, and then the count of the cycles. -/
theorem clockedNext_addCycles {penalty : Nat} (hu : u.cycles = s.cycles) (hpenalty : penalty ≤ extra) :
    ClockedNext base extra s (.next (u.addCycles (base + penalty))) := by
  rintro _ ⟨⟩
  simp only [Clocked, State.addCycles_cycles, hu]
  omega

/-- A meaning that takes its base count and no more. -/
theorem clockedNext_base (hu : u.cycles = s.cycles) : ClockedNext base 0 s (.next (u.addCycles base)) :=
  clockedNext_addCycles (penalty := 0) hu (Nat.le_refl 0)

/-- A meaning whose access is known to answer. -/
theorem andThen_clocked_of_done {α : Type} {r : Access α} {v : α} {k : α → State → State} (hr : r = .done v u)
    (hk : (k v u).cycles = s.cycles) : ClockedNext base 0 s (r.andThen fun v u => .next ((k v u).addCycles base)) := by
  rw [hr]
  exact clockedNext_base hk

/-- A meaning that reads first, and then counts its cycles if the read answered. -/
theorem Access.OnlyReads.andThen_clocked {α : Type} {r : Access α} {k : α → State → State} {penalty : α → Nat}
    (hr : r.OnlyReads s) (hk : ∀ v u, (k v u).cycles = u.cycles) (hpenalty : ∀ v, penalty v ≤ extra) :
    ClockedNext base extra s (r.andThen fun v u => .next ((k v u).addCycles (base + penalty v))) := by
  intro t h
  rcases Access.andThen_eq_next.mp h with hfault | ⟨v, u, hdone, hnext⟩
  · obtain ⟨u, a, hs, rfl⟩ := hr.faulted hfault
    exact clocked_raiseFault hs a
  · exact clockedNext_addCycles ((hk v u).trans (hr.done hdone).cycles) (hpenalty v) t hnext

theorem pagePenalty_le (crossed : Bool) : pagePenalty crossed ≤ 1 := by cases crossed <;> decide

theorem branchExtra_le (pc target : Word) : branchExtra pc target ≤ 2 := by
  unfold branchExtra
  split <;> decide

theorem readThen_clocked {src : Source} {penalty : Bool → Nat} {effect : Byte → State → State}
    (heffect : ∀ v u, (effect v u).cycles = u.cycles) (hpenalty : ∀ crossed, penalty crossed ≤ extra) :
    ClockedNext base extra s (readThen src base penalty effect s) :=
  (s.load_onlyReads src).andThen_clocked (fun l u => heffect l.value u) fun l => hpenalty l.crossed

theorem storeThen_clocked {m : Address} {v : Byte} : ClockedNext base 0 s (storeThen m base v s) := by
  obtain ⟨r, -, hstore⟩ := storeThen_eq (m := m) (base := base) (v := v) (s := s)
  rw [hstore]
  exact clockedNext_base (State.memWrite_cycles s r.ea v)

theorem modifyAddress_clocked {m : Address} {f : Byte → State → Byte × State}
    (hf : ∀ v u, (f v u).2.cycles = u.cycles) :
    ClockedNext base 0 s ((s.modifyAddress m f).andThen fun _ u => .next (u.addCycles base)) := by
  rcases modifyAddress_cases (m := m) (f := f) (s := s) with ⟨r, v, u, -, -, hs, hdone⟩ | ⟨r, u, -, hs, -, hfault⟩
  · have hcycles : ((f v u).2.memWrite r.ea (f v u).1).cycles = s.cycles := by
      rw [State.memWrite_cycles, hf, hs.cycles]
    exact andThen_clocked_of_done hdone hcycles
  · rw [hfault]
    rintro _ ⟨⟩
    exact clocked_raiseFault hs r.ea

theorem branchThen_clocked {cond : Bool} {disp : Byte} : ClockedNext base 2 s (branchThen cond disp base s) := by
  rw [branchThen_eq]
  cases cond with
  | true => exact clockedNext_addCycles rfl (branchExtra_le _ _)
  | false => exact clockedNext_addCycles (penalty := 0) rfl (Nat.zero_le 2)

/-- An exception entry takes its cycles after the vector is read. -/
theorem State.enterHandler_clocked {vector : Word} {status : Byte} {k : State → State}
    (hk : ∀ u, (k u).cycles = u.cycles) :
    ClockedNext base 0 s ((s.enterHandler vector status).andThen fun _ u => .next ((k u).addCycles base)) := by
  rw [State.enterHandler_eq, Access.bind_andThen]
  have hvector := State.readWord_onlyReads (s.afterEntryPushes status) vector
  exact hvector.andThen_clocked (k := fun target u => k (u.setPc target)) (penalty := fun _ => 0)
    (fun target u => hk (u.setPc target)) fun _ => Nat.le_refl 0

end

/-! ### The clock over an instruction and over a step -/

/-- An instruction takes its base count and at most its extra cycles (R171). -/
theorem exec_clocked (i : Instr) (s : State) : ClockedNext i.baseCycles i.maxExtra s (exec i s) := by
  unfold exec
  cases i with
  | adc | sbc | and | ora | eor | cmp | lda | ldx | ldy => exact readThen_clocked (fun _ _ => rfl) pagePenalty_le
  | bit | cpx | cpy => exact readThen_clocked (fun _ _ => rfl) fun _ => Nat.le_refl 0
  | sta | stx | sty => exact storeThen_clocked
  | inc | dec => exact modifyAddress_clocked fun _ _ => rfl
  | asl p | lsr p | rol p | ror p =>
    cases p with
    | accumulator => exact clockedNext_base rfl
    | memory m => exact modifyAddress_clocked fun _ _ => rfl
  | bcc | bcs | beq | bne | bmi | bpl | bvc | bvs => exact branchThen_clocked
  | jmp t =>
    exact (s.jumpTarget_onlyReads t).andThen_clocked (penalty := fun _ => 0) (fun _ _ => rfl) fun _ => Nat.le_refl 0
  | jsr => exact clockedNext_base (by rw [State.pushWord_frame]; rfl)
  | brk => exact State.enterHandler_clocked fun _ => rfl
  | rts => exact andThen_clocked_of_done s.pullWord_eq rfl
  | rti => exact andThen_clocked_of_done s.returnFromHandler_eq rfl
  | pla | plp => exact andThen_clocked_of_done s.pull_eq rfl
  | pha | php => exact clockedNext_base (State.memWrite_cycles _ _ _)
  | clc | sec | cli | sei | cld | sed | clv | tax | tay | txa | tya | tsx | txs | inx | iny | dex | dey | nop | undoc =>
    exact clockedNext_base rfl

/-- A fetch that answers gives an instruction of the opcode map (R163). -/
theorem State.fetch_wellFormed {s t : State} {i : Instr} (h : s.fetch = .done i t) : i.wellFormed = true := by
  obtain ⟨opcode, s1, -, h⟩ := Access.bind_eq_done.mp h
  obtain ⟨j, s2, hoperands, ⟨⟩⟩ := Access.bind_eq_done.mp h
  unfold State.fetchOperands at hoperands
  split at hoperands
  · cases hoperands
    exact wellFormed_ofBytes _ _ _
  · obtain ⟨op1, s3, -, ⟨⟩⟩ := Access.bind_eq_done.mp hoperands
    exact wellFormed_ofBytes _ _ _
  · obtain ⟨op1, s3, -, hoperands⟩ := Access.bind_eq_done.mp hoperands
    obtain ⟨op2, s4, -, ⟨⟩⟩ := Access.bind_eq_done.mp hoperands
    exact wellFormed_ofBytes _ _ _

/-- A fetch takes no cycles of its own, so a step takes those of the instruction fetched (R171). -/
theorem fetch_exec_clocked {s s1 : State} {i : Instr} (hfetch : s.fetch = .done i s1) :
    ClockedNext i.baseCycles i.maxExtra s (exec i s1) := by
  intro t hexec
  have hcycles : s1.cycles = s.cycles := (State.fetch_done hfetch).cycles
  have hclock := exec_clocked i s1 t hexec
  rwa [Clocked, hcycles] at hclock

theorem State.nmiEntry_clocked (s : State) : ClockedNext 7 0 s s.nmiEntry := State.enterHandler_clocked fun _ => rfl

theorem State.irqEntry_clocked (s : State) : ClockedNext 7 0 s s.irqEntry := State.enterHandler_clocked fun _ => rfl

end Sys2Proof.Machine

namespace Sys2Proof.Claims

open Sys2Proof.Machine

/-- Settles O6: each entry of R161 has the count of R630, and the base count is that of the entry for the mode. -/
theorem baseCyclesByClassAndMode : Obligations.BaseCyclesByClassAndMode := fun _ h =>
  Instr.baseCycles_of_forms (P := (· = cyclesByClass _)) h fun _ => Instr.base_of_mem_forms

/-- Settles O22: an entry takes 7 cycles, a fetched instruction 2 to 7, and a fault does not set the clock back. -/
theorem cyclesOfAStep : Obligations.CyclesOfAStep := by
  intro s t hstep
  rcases step_cases hstep with
    ⟨hstopped, rfl⟩ | ⟨-, -, hnmi⟩ | ⟨-, -, -, hirq⟩ | ⟨-, hfault | ⟨i, s1, hfetch, hexec⟩⟩
  · exact ⟨Nat.le_refl _, fun hrunning => by simp [hstopped] at hrunning⟩
  · exact (s.nmiEntry_clocked t hnmi).bounds (by decide) (by decide)
  · exact (s.irqEntry_clocked t hirq).bounds (by decide) (by decide)
  · obtain ⟨u, a, hs, rfl⟩ := State.fetch_faulted hfault
    exact (clocked_raiseFault (base := 2) (extra := 5) hs a).bounds (by decide) (by decide)
  · obtain ⟨hlow, hhigh⟩ := Instr.baseCycles_bounds (State.fetch_wellFormed hfetch)
    exact (fetch_exec_clocked hfetch t hexec).bounds hlow hhigh

end Sys2Proof.Claims

/-! PROOFS. The host's operations (O19 to O21). Reset is its own updates and then the vector read, which decides between two
ends; the RAM that ClearRAM and a snapshot write leave is read back cell by cell, and a word write is two byte writes, each by
the handler of its own address. -/

namespace Sys2Proof.Machine

open Sys2Proof.Claims

/-! ### Reset -/

/-- The state of a Reset before its vector is read: SP less 3, I set, one write of 0x00 to an I/O register (R602). -/
def State.beforeResetVector (s : State) (ioClear : IoAddress) : State :=
  ((s.setSp (s.sp - 3)).setInterruptDisable true).ioWrite ioClear.value 0x00

section
variable {s s2 t : State} {ioClear : IoAddress}

theorem State.hostReset_of_vector {v : Word} (h : (s.beforeResetVector ioClear).readWord resetVector = .done v s2) :
    s.hostReset ioClear = s2.setPc v := by
  rw [State.beforeResetVector] at h
  rw [State.hostReset, h]

theorem State.hostReset_of_fault (h : (s.beforeResetVector ioClear).readWord resetVector = .faulted t) :
    s.hostReset ioClear = { s.beforeResetVector ioClear with
      pc := t.pc, fault := t.fault, mapper := t.mapper, ioLog := t.ioLog, draws := t.draws } := by
  rw [State.beforeResetVector] at h
  rw [State.hostReset, h]
  rfl

end

/-! ### The RAM that the host writes as a whole -/

/-- A memory made by listing addresses with a byte for each has that byte at each of them. -/
theorem Memory.lookup_map_of_mem {l : List Nat} {k : Nat} (f : Nat → Byte) (hk : k ∈ l) :
    Memory.lookup (l.map fun a => (a, f a)) k = some (f k) := by
  induction l with
  | nil => cases hk
  | cons b l ih =>
    by_cases hb : b = k
    · subst hb
      simp [Memory.lookup]
    · have hmem : k ∈ l := (List.mem_cons.mp hk).resolve_left (Ne.symm hb)
      simp [Memory.lookup, hb, ih hmem]

/-- A memory made of a list of bytes has the byte of the list at each address. -/
theorem Memory.lookup_zipIdx (l : List Byte) (lo k : Nat) :
    Memory.lookup ((l.zipIdx lo).map fun c => (c.2, c.1)) (lo + k) = l[k]? := by
  induction l generalizing lo k with
  | nil => rfl
  | cons v l ih =>
    rw [List.zipIdx_cons, List.map_cons, Memory.lookup]
    cases k with
    | zero => simp
    | succ k =>
      have hne : lo ≠ lo + (k + 1) := by omega
      have hk : lo + (k + 1) = lo + 1 + k := by omega
      rw [if_neg hne, hk, ih, List.getElem?_cons_succ]

theorem State.setRam_frame (s : State) (m : Memory) : s.setRam m = { s with ram := (s.setRam m).ram } := rfl

theorem State.ramRead_clearRam (s : State) (a : Word) : s.clearRam.ramRead a = 0x00 := by
  have hcell : (Memory.filled 0x800 0x00).lookup (ramCell a) = some 0x00 :=
    Memory.lookup_map_of_mem (fun _ => 0x00) (List.mem_range.mpr (ramCell_lt a))
  rw [State.ramRead, State.clearRam, State.setRam_ram, hcell, Option.getD_some]

/-- The bytes of RAM that a snapshot write set are those that a snapshot read then lists (R620). -/
theorem State.map_ramRead_writeSnapshot (s : State) (w : SnapshotWrite) :
    ((List.range 0x800).map fun k => (s.writeSnapshot w).ramRead (BitVec.ofNat 16 k)) = w.ram.toList := by
  refine List.ext_getElem (by simp) fun k hk hk' => ?_
  have hlt : k < 0x800 := by simpa using hk'
  have hcell : ramCell (BitVec.ofNat 16 k) = k := by
    rw [ramCell, BitVec.toNat_ofNat]
    omega
  have hlookup : (s.writeSnapshot w).ram.lookup k = some w.ram.toList[k] := by
    have hlisted := Memory.lookup_zipIdx w.ram.toList 0 k
    rwa [Nat.zero_add, List.getElem?_eq_getElem hk'] at hlisted
  rw [List.getElem_map, List.getElem_range, State.ramRead, hcell, hlookup, Option.getD_some]

/-! ### The word write -/

section
variable {s : State} {a w : Word}

/-- Within the I/O port a word write is two recorded writes, the low byte first (R85, R90). -/
theorem State.writeWord_io (hlo : handlerOf a = .io) (hhi : handlerOf (a + 1) = .io) :
    s.writeWord a w = (s.logIo (.write a (lowByte w))).logIo (.write (a + 1) (highByte w)) := by
  rw [State.writeWord, State.memWrite_io hlo, State.memWrite_io hhi]

/-- Within RAM a word that was written is read back (R83, R88, R90). -/
theorem State.readWord_writeWord_ram (hlo : handlerOf a = .ram) (hhi : handlerOf (a + 1) = .ram)
    (hcells : ramCell (a + 1) ≠ ramCell a) : (s.writeWord a w).readWord a = .done w (s.writeWord a w) := by
  rw [State.readWord, State.readPair_ram hlo hhi, State.writeWord, State.memWrite_ram hlo, State.memWrite_ram hhi,
    State.ramRead_ramWrite, if_pos rfl, State.ramRead_ramWrite, if_neg hcells, State.ramRead_ramWrite, if_pos rfl,
    wordOf_high_low]

end

end Sys2Proof.Machine

namespace Sys2Proof.Claims

open Sys2Proof.Machine

/-- Settles O21: the updates of the latches, the RAM that ClearRAM and a snapshot write leave, and the word write by
the handlers of its two addresses. -/
theorem hostOperations : Obligations.HostOperations := by
  intro s
  refine ⟨rfl, rfl, ⟨s.setRam_frame _, s.ramRead_clearRam⟩, fun w => ⟨rfl, ?snapshot⟩, fun _ _ => rfl,
    fun a w hlo hhi => ?io, fun w => ?top, fun a w hhi => ?ram⟩
  case snapshot =>
    have hstatus : (s.writeSnapshot w).flags.getSr = w.status ||| 0x20 := (statusByteRoundTrip.2 w.status).2
    rw [State.snapshot, s.map_ramRead_writeSnapshot w, hstatus]
    rfl
  case io =>
    have hnext : (a + 1).toNat = a.toNat + 1 := by bv_omega
    exact State.writeWord_io (handlerOf_io_iff.mpr (by omega)) (handlerOf_io_iff.mpr (by omega))
  case top =>
    have hlow : handlerOf 0xFFFF = .mapper := handlerOf_mapper_iff.mpr (by decide)
    have hhigh : handlerOf (0xFFFF + 1) = .ram := handlerOf_ram_iff.mpr (by decide)
    rw [State.writeWord, State.memWrite_ram hhigh, State.memWrite_mapper hlow]
    rfl
  case ram =>
    have hnext : (a + 1).toNat = a.toNat + 1 := by bv_omega
    have hcells : ramCell (a + 1) ≠ ramCell a := by
      rw [ramCell, ramCell, hnext]
      omega
    exact State.readWord_writeWord_ram (handlerOf_ram_iff.mpr (by omega)) (handlerOf_ram_iff.mpr (by omega)) hcells

/-- Settles O19: `State.clearIo_eq`, the properties that the I/O set carries, and RAM with no cell listed. -/
theorem powerUpEffect : Obligations.PowerUpEffect := by
  intro s p
  have hstate := State.clearIo_eq p.ioClear { s with
    a := 0x00, x := 0x00, y := 0x00, pc := p.pc, sp := p.sp, flags := p.flags, ram := [], ramDraw := s.draws
    draws := s.draws + 1, nmiPending := false, irqPending := false, cycles := 0, fault := none }
  refine ⟨hstate, fun a ha => ?_, p.ioClear.ascending, fun a _ => ?_⟩
  · have hrange := p.ioClear.inRange a ha
    omega
  · rw [State.powerUp, hstate]
    rfl

/-- Settles O20: the vector read answers, always so with an NROM-style cartridge, or it faults, which sets the mark. -/
theorem resetEffect : Obligations.ResetEffect := by
  intro s clear s1
  have hs1 : s.beforeResetVector clear = s1 := rfl
  refine ⟨?range, fun v s2 hread => ?done, fun r hr => ?nrom, fun t hread => ?faulted⟩
  case range =>
    have hrange := clear.inRange
    omega
  case done => exact ⟨State.hostReset_of_vector hread, (s1.readWord_onlyReads _).done hread⟩
  case nrom =>
    obtain ⟨lo, hi, hlo, hhi, hread⟩ := State.readWord_nromPrg (s := s1) (a := 0xFFFC) hr (by decide) (by decide)
    exact ⟨lo, hi, hlo, hhi, State.hostReset_of_vector hread⟩
  case faulted =>
    obtain ⟨u, a, -, hmark⟩ := (s1.readWord_onlyReads _).faulted hread
    exact ⟨t.pc, by rw [hmark]; rfl, State.hostReset_of_fault hread⟩

end Sys2Proof.Claims
